-- ==== Sys2Proof/Word.lean ====
section
/-! DEFINITION. The word types of CRCGEN: an octet, the 32-bit bus word (00_scope R6, `DATA_W`), the 64-bit count
(`CNT_W`), the 41-bit bus transaction (30_encoding R57) and host-side text. -/

namespace Sys2Proof

/-- One octet of a frame or of a CRC input. -/
abbrev Byte := BitVec 8

/-- A bus word, a configuration integer, a CRC register (00_scope R6: `DATA_W`, `CFG_W`). -/
abbrev Word := BitVec 32

/-- A burst count, an end-of-burst filler count, the frame counter (00_scope R6: `CNT_W`). -/
abbrev Count := BitVec 64

/-- A register byte offset (00_scope R6: `ADDR_W`). -/
abbrev Offset := BitVec 8

/-- A host bus transaction, the format T41 (30_encoding R57). -/
abbrev Transaction := BitVec 41

/-- Text on the host's side: script lines, configuration keys and values, the rendered trace. -/
abbrev Text := List Char

end Sys2Proof
end

