-- ==== Sys2Proof/Config.lean ====
section
/-! DEFINITION. What is fixed for one CRCGEN: the names of its registers (10_state R16), its parameters (00_scope R6) and the
values the spec leaves open. -/

namespace Sys2Proof

/-- The names of the register map (10_state R16), in the map's order. Their offsets are `RegName.offset` in Decode.lean. -/
inductive RegName where
  | ctrl | status
  | lineRateGbps | captureMs | minIfgBytes
  | destMacHi | destMacLo | srcMacHi | srcMacLo
  | maxFrameBytes | framesPerBurst | burstPeriodUs
  | totalBurstsLo | totalBurstsHi | ifgWords | eobWordsLo | eobWordsHi
  | framesSentLo | framesSentHi | lastFcs
  | crcInit | crcData | crcResult
  deriving DecidableEq, Repr

/-- The parameters of 00_scope R6 that every frame depends on. R81 asks for `PREAMBLE_SFD[31:0]` and R82 for `ETHERTYPE` as
parameters: they are data of the machine that no step changes, so a claim over all states is a claim over all their values
(log 6). -/
structure Params where
  /-- `PREAMBLE_SFD[31:0]` (41_frame_assembler R81). -/
  preambleLow : Word
  /-- `ETHERTYPE` (41_frame_assembler R82). -/
  etherType : BitVec 16
  deriving DecidableEq, Repr

/-- The defaults of 00_scope R6. PRESUMED: the spec marks both as general knowledge, not in its source (93 G1, G2); log 6. -/
def Params.default : Params := { preambleLow := 0x555555D5#32, etherType := 0x0800#16 }

/-- `BASE`, the address of the register block in the host's address space: OPEN (00_scope R6, 20_memory R41), so it has no
value here (log 7). -/
opaque Config.base : Nat

/-- Which occurrence the loader takes of a key that a configuration record holds `n` times, `n ≥ 2`: 44_register_ops R155 does
not say, so it is a free value (log 14). -/
opaque Config.repeatedKeyChoice : Nat → Nat

/-- The host's address of a register offset (20_memory R40: offsets count from `BASE`). -/
def Config.hostAddress (off : Offset) : Nat := Config.base + off.toNat

end Sys2Proof
end

