-- ==== Sys2Proof/Syntax.lean ====
section
/-! DEFINITION. The operations of spec/opcode_table.json: one constructor per mnemonic (30_encoding R61; the three rows of
`RD.RSVD`, the three of `WR.RSVD` and the two of `MISALIGNED` are one constructor each, with the offset as an operand). A write
carries its `WDATA`, also where its rule ignores it; a read has no operand (30_encoding R57, R58). -/

namespace Sys2Proof

/-- A host bus operation. -/
inductive Instr where
  /-- `RD.CTRL` (44_register_ops R113). -/
  | rdCtrl
  /-- `WR.CTRL` (44_register_ops R114). -/
  | wrCtrl (wdata : Word)
  /-- `RD.STATUS` (44_register_ops R115). -/
  | rdStatus
  /-- `WR.STATUS` (44_register_ops R116). -/
  | wrStatus (wdata : Word)
  /-- `RD.LINE_RATE_GBPS` (44_register_ops R117). -/
  | rdLineRateGbps
  /-- `WR.LINE_RATE_GBPS` (44_register_ops R118). -/
  | wrLineRateGbps (wdata : Word)
  /-- `RD.CAPTURE_MS` (44_register_ops R119). -/
  | rdCaptureMs
  /-- `WR.CAPTURE_MS` (44_register_ops R120). -/
  | wrCaptureMs (wdata : Word)
  /-- `RD.MIN_IFG_BYTES` (44_register_ops R121). -/
  | rdMinIfgBytes
  /-- `WR.MIN_IFG_BYTES` (44_register_ops R122). -/
  | wrMinIfgBytes (wdata : Word)
  /-- `RD.DEST_MAC_HI` (44_register_ops R123). -/
  | rdDestMacHi
  /-- `WR.DEST_MAC_HI` (44_register_ops R124). -/
  | wrDestMacHi (wdata : Word)
  /-- `RD.DEST_MAC_LO` (44_register_ops R125). -/
  | rdDestMacLo
  /-- `WR.DEST_MAC_LO` (44_register_ops R126). -/
  | wrDestMacLo (wdata : Word)
  /-- `RD.SRC_MAC_HI` (44_register_ops R127). -/
  | rdSrcMacHi
  /-- `WR.SRC_MAC_HI` (44_register_ops R128). -/
  | wrSrcMacHi (wdata : Word)
  /-- `RD.SRC_MAC_LO` (44_register_ops R129). -/
  | rdSrcMacLo
  /-- `WR.SRC_MAC_LO` (44_register_ops R130). -/
  | wrSrcMacLo (wdata : Word)
  /-- `RD.MAX_FRAME_BYTES` (44_register_ops R131). -/
  | rdMaxFrameBytes
  /-- `WR.MAX_FRAME_BYTES` (44_register_ops R132). -/
  | wrMaxFrameBytes (wdata : Word)
  /-- `RD.FRAMES_PER_BURST` (44_register_ops R133). -/
  | rdFramesPerBurst
  /-- `WR.FRAMES_PER_BURST` (44_register_ops R134). -/
  | wrFramesPerBurst (wdata : Word)
  /-- `RD.BURST_PERIOD_US` (44_register_ops R135). -/
  | rdBurstPeriodUs
  /-- `WR.BURST_PERIOD_US` (44_register_ops R136). -/
  | wrBurstPeriodUs (wdata : Word)
  /-- `RD.TOTAL_BURSTS_LO` (44_register_ops R137). -/
  | rdTotalBurstsLo
  /-- `WR.TOTAL_BURSTS_LO` (44_register_ops R138). -/
  | wrTotalBurstsLo (wdata : Word)
  /-- `RD.TOTAL_BURSTS_HI` (44_register_ops R139). -/
  | rdTotalBurstsHi
  /-- `WR.TOTAL_BURSTS_HI` (44_register_ops R140). -/
  | wrTotalBurstsHi (wdata : Word)
  /-- `RD.IFG_WORDS` (44_register_ops R141). -/
  | rdIfgWords
  /-- `WR.IFG_WORDS` (44_register_ops R142). -/
  | wrIfgWords (wdata : Word)
  /-- `RD.EOB_WORDS_LO` (44_register_ops R143). -/
  | rdEobWordsLo
  /-- `WR.EOB_WORDS_LO` (44_register_ops R144). -/
  | wrEobWordsLo (wdata : Word)
  /-- `RD.EOB_WORDS_HI` (44_register_ops R145). -/
  | rdEobWordsHi
  /-- `WR.EOB_WORDS_HI` (44_register_ops R146). -/
  | wrEobWordsHi (wdata : Word)
  /-- `RD.FRAMES_SENT_LO` (44_register_ops R147). -/
  | rdFramesSentLo
  /-- `WR.FRAMES_SENT_LO` (44_register_ops R148). -/
  | wrFramesSentLo (wdata : Word)
  /-- `RD.FRAMES_SENT_HI` (44_register_ops R149). -/
  | rdFramesSentHi
  /-- `WR.FRAMES_SENT_HI` (44_register_ops R150). -/
  | wrFramesSentHi (wdata : Word)
  /-- `RD.LAST_FCS` (44_register_ops R151). -/
  | rdLastFcs
  /-- `WR.LAST_FCS` (44_register_ops R152). -/
  | wrLastFcs (wdata : Word)
  /-- `RD.CRC_INIT` (40_crc32 R76). -/
  | rdCrcInit
  /-- `WR.CRC_INIT` (40_crc32 R73). -/
  | wrCrcInit (wdata : Word)
  /-- `RD.CRC_DATA` (40_crc32 R77). -/
  | rdCrcData
  /-- `WR.CRC_DATA` (40_crc32 R74). -/
  | wrCrcData (wdata : Word)
  /-- `RD.CRC_RESULT` (40_crc32 R75). -/
  | rdCrcResult
  /-- `WR.CRC_RESULT` (40_crc32 R78). -/
  | wrCrcResult (wdata : Word)
  /-- `RD.RSVD` at a reserved offset (44_register_ops R153). -/
  | rdRsvd (addr : Offset)
  /-- `WR.RSVD` at a reserved offset (44_register_ops R154). -/
  | wrRsvd (addr : Offset) (wdata : Word)
  /-- `MISALIGNED`: a transaction whose `ADDR[1:0]` is not `00`, read or write (30_encoding R59). -/
  | misaligned (we : Bool) (addr : Offset) (wdata : Word)
  deriving DecidableEq, Repr

end Sys2Proof
end

