-- ==== Sys2Proof/WellFormed.lean ====
section
/-! DEFINITION. Which terms of `Instr` stand for a bus transaction: the reserved operations only at the reserved offsets
(30_encoding R61, R62) and `MISALIGNED` only at an offset whose low two bits are not `00` (R59). -/

namespace Sys2Proof

/-- `ADDR[1:0] = 00` (20_memory R46). -/
def Offset.aligned (a : Offset) : Bool := a.extractLsb' 0 2 == 0#2

/-- The reserved offsets: the word-aligned ones from `0x5C` to `0xFC` (10_state R32). -/
def Offset.reserved (a : Offset) : Bool := Offset.aligned a && decide (0x5C ≤ a.toNat)

/-- A term that some transaction word spells. Every operation at a defined register is well formed with any `WDATA`. -/
def Instr.wellFormed : Instr → Bool
  | .rdCtrl | .wrCtrl _
  | .rdStatus | .wrStatus _
  | .rdLineRateGbps | .wrLineRateGbps _
  | .rdCaptureMs | .wrCaptureMs _
  | .rdMinIfgBytes | .wrMinIfgBytes _
  | .rdDestMacHi | .wrDestMacHi _
  | .rdDestMacLo | .wrDestMacLo _
  | .rdSrcMacHi | .wrSrcMacHi _
  | .rdSrcMacLo | .wrSrcMacLo _
  | .rdMaxFrameBytes | .wrMaxFrameBytes _
  | .rdFramesPerBurst | .wrFramesPerBurst _
  | .rdBurstPeriodUs | .wrBurstPeriodUs _
  | .rdTotalBurstsLo | .wrTotalBurstsLo _
  | .rdTotalBurstsHi | .wrTotalBurstsHi _
  | .rdIfgWords | .wrIfgWords _
  | .rdEobWordsLo | .wrEobWordsLo _
  | .rdEobWordsHi | .wrEobWordsHi _
  | .rdFramesSentLo | .wrFramesSentLo _
  | .rdFramesSentHi | .wrFramesSentHi _
  | .rdLastFcs | .wrLastFcs _
  | .rdCrcInit | .wrCrcInit _
  | .rdCrcData | .wrCrcData _
  | .rdCrcResult | .wrCrcResult _ => true
  | .rdRsvd a => Offset.reserved a
  | .wrRsvd a _ => Offset.reserved a
  | .misaligned _ a _ => !Offset.aligned a

end Sys2Proof
end

