-- ==== Sys2Proof/Decode.lean ====
section
/-! DEFINITION. The register map's offsets (10_state R16), decoding of a transaction word (30_encoding R57, R58, R61, R62), total
on all 2^41 words, and the encoder written from the same table. -/

namespace Sys2Proof

/-- The byte offset of a register from `BASE` (10_state R16). -/
def RegName.offset : RegName → Offset
  | .ctrl => 0x00#8
  | .status => 0x04#8
  | .lineRateGbps => 0x08#8
  | .captureMs => 0x0C#8
  | .minIfgBytes => 0x10#8
  | .destMacHi => 0x14#8
  | .destMacLo => 0x18#8
  | .srcMacHi => 0x1C#8
  | .srcMacLo => 0x20#8
  | .maxFrameBytes => 0x24#8
  | .framesPerBurst => 0x28#8
  | .burstPeriodUs => 0x2C#8
  | .totalBurstsLo => 0x30#8
  | .totalBurstsHi => 0x34#8
  | .ifgWords => 0x38#8
  | .eobWordsLo => 0x3C#8
  | .eobWordsHi => 0x40#8
  | .framesSentLo => 0x44#8
  | .framesSentHi => 0x48#8
  | .lastFcs => 0x4C#8
  | .crcInit => 0x50#8
  | .crcData => 0x54#8
  | .crcResult => 0x58#8

/-- Every register of the map, in the order of its offset. -/
def RegName.all : List RegName :=
  [.ctrl, .status, .lineRateGbps, .captureMs, .minIfgBytes, .destMacHi, .destMacLo, .srcMacHi, .srcMacLo, .maxFrameBytes, .framesPerBurst, .burstPeriodUs] ++
  [.totalBurstsLo, .totalBurstsHi, .ifgWords, .eobWordsLo, .eobWordsHi, .framesSentLo, .framesSentHi, .lastFcs, .crcInit, .crcData, .crcResult]

/-- The register at an offset, if the offset is a defined one (10_state R16, R32). -/
def RegName.ofOffset (a : Offset) : Option RegName := RegName.all.find? (fun r => r.offset == a)

/-- `WE`, bit 40 (30_encoding R57). -/
def Transaction.we (t : Transaction) : Bool := t.getLsbD 40

/-- `ADDR`, bits 39:32 (30_encoding R57). -/
def Transaction.addr (t : Transaction) : Offset := t.extractLsb' 32 8

/-- `WDATA`, bits 31:0 (30_encoding R57). -/
def Transaction.wdata (t : Transaction) : Word := t.extractLsb' 0 32

/-- `T = {WE, ADDR, WDATA}` (30_encoding R57). -/
def Transaction.make (we : Bool) (addr : Offset) (wdata : Word) : Transaction := BitVec.ofBool we ++ addr ++ wdata

/-- `BusRead(a)`: `T = {0, a, 0x00000000}` (30_encoding R57). -/
def busRead (addr : Offset) : Transaction := Transaction.make false addr 0#32

/-- `BusWrite(a, v)`: `T = {1, a, v}` (30_encoding R57). -/
def busWrite (addr : Offset) (v : Word) : Transaction := Transaction.make true addr v

/-- The read operation at a register (30_encoding R61, column `WE=0`). -/
def Instr.readOf : RegName → Instr
  | .ctrl => .rdCtrl
  | .status => .rdStatus
  | .lineRateGbps => .rdLineRateGbps
  | .captureMs => .rdCaptureMs
  | .minIfgBytes => .rdMinIfgBytes
  | .destMacHi => .rdDestMacHi
  | .destMacLo => .rdDestMacLo
  | .srcMacHi => .rdSrcMacHi
  | .srcMacLo => .rdSrcMacLo
  | .maxFrameBytes => .rdMaxFrameBytes
  | .framesPerBurst => .rdFramesPerBurst
  | .burstPeriodUs => .rdBurstPeriodUs
  | .totalBurstsLo => .rdTotalBurstsLo
  | .totalBurstsHi => .rdTotalBurstsHi
  | .ifgWords => .rdIfgWords
  | .eobWordsLo => .rdEobWordsLo
  | .eobWordsHi => .rdEobWordsHi
  | .framesSentLo => .rdFramesSentLo
  | .framesSentHi => .rdFramesSentHi
  | .lastFcs => .rdLastFcs
  | .crcInit => .rdCrcInit
  | .crcData => .rdCrcData
  | .crcResult => .rdCrcResult

/-- The write operation at a register (30_encoding R61, column `WE=1`). -/
def Instr.writeOf (wdata : Word) : RegName → Instr
  | .ctrl => .wrCtrl wdata
  | .status => .wrStatus wdata
  | .lineRateGbps => .wrLineRateGbps wdata
  | .captureMs => .wrCaptureMs wdata
  | .minIfgBytes => .wrMinIfgBytes wdata
  | .destMacHi => .wrDestMacHi wdata
  | .destMacLo => .wrDestMacLo wdata
  | .srcMacHi => .wrSrcMacHi wdata
  | .srcMacLo => .wrSrcMacLo wdata
  | .maxFrameBytes => .wrMaxFrameBytes wdata
  | .framesPerBurst => .wrFramesPerBurst wdata
  | .burstPeriodUs => .wrBurstPeriodUs wdata
  | .totalBurstsLo => .wrTotalBurstsLo wdata
  | .totalBurstsHi => .wrTotalBurstsHi wdata
  | .ifgWords => .wrIfgWords wdata
  | .eobWordsLo => .wrEobWordsLo wdata
  | .eobWordsHi => .wrEobWordsHi wdata
  | .framesSentLo => .wrFramesSentLo wdata
  | .framesSentHi => .wrFramesSentHi wdata
  | .lastFcs => .wrLastFcs wdata
  | .crcInit => .wrCrcInit wdata
  | .crcData => .wrCrcData wdata
  | .crcResult => .wrCrcResult wdata

/-- The decoder (30_encoding R58): (1) a word with `ADDR[1:0]` other than `00` is `MISALIGNED`; (2) otherwise `(WE, ADDR[7:2])`
selects the operation, and `WDATA` is the only operand, ignored by a read. -/
def decode (t : Transaction) : Instr :=
  if Offset.aligned t.addr then
    match RegName.ofOffset t.addr with
    | some r => if t.we then Instr.writeOf t.wdata r else Instr.readOf r
    | none => if t.we then .wrRsvd t.addr t.wdata else .rdRsvd t.addr
  else .misaligned t.we t.addr t.wdata

/-- The transaction word of an operation (30_encoding R57, R61). A read's word has `WDATA = 0`, as `BusRead` does. -/
def encode : Instr → Transaction
  | .rdCtrl => busRead (RegName.offset .ctrl)
  | .wrCtrl wdata => busWrite (RegName.offset .ctrl) wdata
  | .rdStatus => busRead (RegName.offset .status)
  | .wrStatus wdata => busWrite (RegName.offset .status) wdata
  | .rdLineRateGbps => busRead (RegName.offset .lineRateGbps)
  | .wrLineRateGbps wdata => busWrite (RegName.offset .lineRateGbps) wdata
  | .rdCaptureMs => busRead (RegName.offset .captureMs)
  | .wrCaptureMs wdata => busWrite (RegName.offset .captureMs) wdata
  | .rdMinIfgBytes => busRead (RegName.offset .minIfgBytes)
  | .wrMinIfgBytes wdata => busWrite (RegName.offset .minIfgBytes) wdata
  | .rdDestMacHi => busRead (RegName.offset .destMacHi)
  | .wrDestMacHi wdata => busWrite (RegName.offset .destMacHi) wdata
  | .rdDestMacLo => busRead (RegName.offset .destMacLo)
  | .wrDestMacLo wdata => busWrite (RegName.offset .destMacLo) wdata
  | .rdSrcMacHi => busRead (RegName.offset .srcMacHi)
  | .wrSrcMacHi wdata => busWrite (RegName.offset .srcMacHi) wdata
  | .rdSrcMacLo => busRead (RegName.offset .srcMacLo)
  | .wrSrcMacLo wdata => busWrite (RegName.offset .srcMacLo) wdata
  | .rdMaxFrameBytes => busRead (RegName.offset .maxFrameBytes)
  | .wrMaxFrameBytes wdata => busWrite (RegName.offset .maxFrameBytes) wdata
  | .rdFramesPerBurst => busRead (RegName.offset .framesPerBurst)
  | .wrFramesPerBurst wdata => busWrite (RegName.offset .framesPerBurst) wdata
  | .rdBurstPeriodUs => busRead (RegName.offset .burstPeriodUs)
  | .wrBurstPeriodUs wdata => busWrite (RegName.offset .burstPeriodUs) wdata
  | .rdTotalBurstsLo => busRead (RegName.offset .totalBurstsLo)
  | .wrTotalBurstsLo wdata => busWrite (RegName.offset .totalBurstsLo) wdata
  | .rdTotalBurstsHi => busRead (RegName.offset .totalBurstsHi)
  | .wrTotalBurstsHi wdata => busWrite (RegName.offset .totalBurstsHi) wdata
  | .rdIfgWords => busRead (RegName.offset .ifgWords)
  | .wrIfgWords wdata => busWrite (RegName.offset .ifgWords) wdata
  | .rdEobWordsLo => busRead (RegName.offset .eobWordsLo)
  | .wrEobWordsLo wdata => busWrite (RegName.offset .eobWordsLo) wdata
  | .rdEobWordsHi => busRead (RegName.offset .eobWordsHi)
  | .wrEobWordsHi wdata => busWrite (RegName.offset .eobWordsHi) wdata
  | .rdFramesSentLo => busRead (RegName.offset .framesSentLo)
  | .wrFramesSentLo wdata => busWrite (RegName.offset .framesSentLo) wdata
  | .rdFramesSentHi => busRead (RegName.offset .framesSentHi)
  | .wrFramesSentHi wdata => busWrite (RegName.offset .framesSentHi) wdata
  | .rdLastFcs => busRead (RegName.offset .lastFcs)
  | .wrLastFcs wdata => busWrite (RegName.offset .lastFcs) wdata
  | .rdCrcInit => busRead (RegName.offset .crcInit)
  | .wrCrcInit wdata => busWrite (RegName.offset .crcInit) wdata
  | .rdCrcData => busRead (RegName.offset .crcData)
  | .wrCrcData wdata => busWrite (RegName.offset .crcData) wdata
  | .rdCrcResult => busRead (RegName.offset .crcResult)
  | .wrCrcResult wdata => busWrite (RegName.offset .crcResult) wdata
  | .rdRsvd addr => busRead addr
  | .wrRsvd addr wdata => busWrite addr wdata
  | .misaligned we addr wdata => Transaction.make we addr wdata

/-- Why bits are no transaction word at all. -/
inductive DecodeError where
  /-- The number has a bit above bit 40, and every transaction is 41 bits long (30_encoding R57, R63). -/
  | widerThan41Bits
  deriving DecidableEq, Repr

/-- Decoding of any number of bits, numbered as the opcode table numbers them: bit 0 is `WDATA[0]` and bit 40 is `WE`. -/
def decodeBits (w : Nat) : Except DecodeError Instr :=
  if w < 2 ^ 41 then .ok (decode (BitVec.ofNat 41 w)) else .error .widerThan41Bits

/-- What the decoder reads from an opcode-table row's word; bits at and above `nbits` count as 0. -/
def decodeTableWord (nbits w : Nat) : Option Instr :=
  match decodeBits (w % 2 ^ nbits) with
  | .ok i => some i
  | .error _ => none

end Sys2Proof
end

