-- ==== Sys2Proof/Machine/State.lean ====
section
/-! DEFINITION. The state of CRCGEN as plain data (10_state R13), the environment beside it (00_scope R11), the reasons to stop,
and the state after reset (10_state R38). -/

namespace Sys2Proof.Machine

/-- `STATUS.ERR` (10_state R19). The reserved codes 4 to 15 are never produced, so they have no name (93 U6, log 19). -/
inductive ErrCode where
  | none | size | param | range
  deriving DecidableEq, Repr

/-- `seq.phase` (10_state R34). -/
inductive Phase where
  | idle | burstTop | frameTop | frame | ifg | eob
  deriving DecidableEq, Repr

/-- The configuration registers, the source's TrafficProfile (10_state R20 to R27). Bits 31:16 of the two `_HI` registers are
RAZ/WI (R24), so they are not held. -/
structure TrafficProfile where
  lineRateGbps   : Word
  captureMs      : Word
  minIfgBytes    : Word
  destMacHi      : BitVec 16
  destMacLo      : Word
  srcMacHi       : BitVec 16
  srcMacLo       : Word
  maxFrameBytes  : Word
  framesPerBurst : Word
  burstPeriodUs  : Word
  deriving DecidableEq, Repr

/-- The plan registers, the source's BurstPlan (10_state R28): `B`, `IFGW` and `EOBW`. -/
structure PlanRegs where
  totalBursts : Count
  ifgWords    : Word
  eobWords    : Count
  deriving DecidableEq, Repr

/-- The stored bits of `STATUS` (10_state R18). `BUSY` is not stored: it is `seq.phase` other than `IDLE`. -/
structure Status where
  done      : Bool
  cancelled : Bool
  err       : ErrCode
  deriving DecidableEq, Repr

/-- The sequencer's internal fields (10_state R33). -/
structure Sequencer where
  phase   : Phase
  burst   : Count
  frame   : Word
  byte    : Word
  fill    : Count
  fcs     : Word
  stopReq : Bool
  deriving DecidableEq, Repr

/-- An output beat (30_encoding R64): `NB`, the number of valid bytes, and `DATA`, lane 0 in the most significant byte. -/
structure Beat where
  nb   : BitVec 3
  data : Word
  deriving DecidableEq, Repr

/-- One line of an assembled host script (30_encoding R66): a bus transaction, or the branch `BNE`, which reads by `read` and
goes to the line `target` if the value under `mask` is not `value`. -/
inductive AgentLine where
  | transaction (t : Transaction)
  | branch (read : Transaction) (mask value : Word) (target : Nat)
  deriving DecidableEq, Repr

/-- What `RD` and `WR` name: a register of the map, or a numeric offset `@<off>` (30_encoding R66). -/
inductive ScriptTarget where
  | register (r : RegName)
  | offset (a : Offset)
  deriving DecidableEq, Repr

/-- The two MAC addresses that `SETMAC` writes (30_encoding R67). -/
inductive MacName where
  | dest | src
  deriving DecidableEq, Repr

/-- The names that `RD64` takes: those of the register map that have a `_LO` and a `_HI` (30_encoding R67, 10_state R16). -/
inductive PairName where
  | destMac | srcMac | totalBursts | eobWords | framesSent
  deriving DecidableEq, Repr

/-- One operation of a host script, as 30_encoding R66 and R67 name them. The operand of `SETMAC` and of `CRCHEX` is text, which
the assembler may refuse; so may a number of `WR` or `BNE`. A branch names the operation its label stands at, counted from 0. -/
inductive ScriptOp where
  | rd (t : ScriptTarget)
  | wr (t : ScriptTarget) (imm : Int)
  | bne (r : RegName) (mask value : Int) (label : Nat)
  | setMac (m : MacName) (hex : Text)
  | start (pad : Bool)
  | stop
  | waitDone
  | crcReset
  | crcHex (hex : Text)
  | crcStr (codes : List Byte)
  | rd64 (n : PairName)
  deriving DecidableEq, Repr

/-- The host agent (00_scope R11). The model's own: no part of the block's state (10_state R13). -/
structure HostAgent where
  /-- The assembled script (log 5). -/
  program : List AgentLine
  /-- Which line of the script comes next (log 5). -/
  pc : Nat
  /-- The `RDATA` values returned so far, oldest first (30_encoding R57, log 4). -/
  reads : List Word
  deriving DecidableEq, Repr

/-- An event of the total order of 20_memory R52. -/
inductive Event where
  /-- A bus transaction of the host or of any agent on its bus (30_encoding R57; 60_exceptions R168). -/
  | transaction (t : Transaction)
  /-- The host runs the next line of its script (30_encoding R66). -/
  | hostTurn
  /-- The sequencer's turn, with the sink ready for a beat or not (43_serializer R101; 20_memory R50). -/
  | sequencerTurn (sinkReady : Bool)
  /-- The host drives reset (70_reset_and_hazards R171). -/
  | reset
  /-- The host assembles a script (30_encoding R66, R67) and will run it from its first line. Text that spells no script is no
  such event (`readScript` in ScriptText.lean, log 15). -/
  | script (ops : List ScriptOp)
  /-- The host loads a configuration record, or fails to read it (44_register_ops R155). -/
  | record (r : Option (List (Text × Text)))
  deriving DecidableEq, Repr

/-- The whole machine: the block (10_state R13), its parameters (00_scope R6), and the environment. -/
structure State where
  /-- The parameters; no step changes them (log 6). -/
  params     : Params
  /-- The configuration registers. -/
  cfg        : TrafficProfile
  /-- `CTRL.PAD_TO_WORD` (10_state R17). -/
  padToWord  : Bool
  /-- `STATUS.DONE`, `CANCELLED` and `ERR` (10_state R18). -/
  status     : Status
  /-- The plan registers. -/
  plan       : PlanRegs
  /-- `FRAMES_SENT` (10_state R29). -/
  framesSent : Count
  /-- `LAST_FCS` (10_state R30). -/
  lastFcs    : Word
  /-- The CRC register of the host CRC port (10_state R31). -/
  hcrc       : Word
  /-- The sequencer. -/
  seq        : Sequencer
  /-- The output stream: the beats emitted so far, oldest first (20_memory R50). -/
  stream     : List Beat
  /-- The host agent (the model's own). -/
  agent      : HostAgent
  /-- The events to come, in their order (the model's own; 20_memory R52, log 1). -/
  schedule   : List Event
  deriving DecidableEq, Repr

/-- CRCGEN has no machine fault: START's errors are status bits and the machine goes on (60_exceptions R156, R157), and no other
operation raises one (R159). Nothing raises a `Fault`, so it has no constructor (log 20). -/
inductive Fault
  deriving DecidableEq, Repr

/-- The reasons a step has no meaning. All but the first are the host-side refusals of the spec; each is safe: a claim about a
refused host cannot be proved (30_encoding R59, 60_exceptions R158). -/
inductive Refusal where
  /-- Raised by `exec`'s arm of an instruction not modelled yet. Safe. No arm raises it now. -/
  | notModelled (mnemonic : String)
  /-- Raised by a transaction, or a script line, whose `ADDR[1:0]` is not `00`: `MISALIGNED`, with the address (30_encoding R59).
  Safe. -/
  | misaligned (addr : Offset)
  /-- Raised by the host assembler or loader: MalformedHexError (60_exceptions R158 (b)). Safe. -/
  | malformedHex
  /-- Raised by the host loader: ConfigurationError (60_exceptions R158 (a)). Safe. -/
  | configurationError
  /-- Raised by the host assembler: a number outside `0..2^32-1` (30_encoding R66, D28; for `BNE`, log 23). Safe. -/
  | immediateOutOfRange (imm : Int)
  deriving DecidableEq, Repr

/-- Every configuration register 0 (10_state R38). -/
def TrafficProfile.zero : TrafficProfile :=
  { lineRateGbps := 0#32, captureMs := 0#32, minIfgBytes := 0#32, destMacHi := 0#16, destMacLo := 0#32, srcMacHi := 0#16,
    srcMacLo := 0#32, maxFrameBytes := 0#32, framesPerBurst := 0#32, burstPeriodUs := 0#32 }

/-- Every plan register 0 (10_state R38). -/
def PlanRegs.zero : PlanRegs := { totalBursts := 0#64, ifgWords := 0#32, eobWords := 0#64 }

/-- `STATUS.DONE`, `CANCELLED` and `ERR` all 0 (10_state R38). -/
def Status.clear : Status := { done := false, cancelled := false, err := .none }

/-- The sequencer after reset (10_state R38). -/
def Sequencer.reset : Sequencer :=
  { phase := .idle, burst := 0#64, frame := 0#32, byte := 0#32, fill := 0#64, fcs := 0xFFFFFFFF#32, stopReq := false }

/-- The machine right after reset (10_state R38), with the default parameters (log 6), nothing emitted before the first event
(log 17), a host that has read nothing and has no script (logs 4, 5), and no event to come (log 1). -/
def State.reset : State :=
  { params := Params.default, cfg := TrafficProfile.zero, padToWord := false, status := Status.clear, plan := PlanRegs.zero,
    framesSent := 0#64, lastFcs := 0#32, hcrc := 0xFFFFFFFF#32, seq := Sequencer.reset, stream := [],
    agent := { program := [], pc := 0, reads := [] }, schedule := [] }

end Sys2Proof.Machine
end

