-- ==== Sys2Proof/Machine/Operands.lean ====
section
/-! DEFINITION. Operand forms (30_encoding R60) and bit fields: which bits of `WDATA` a write uses, how a read value is put
together, the two 48-bit MAC addresses (10_state R24), octets of a wider value and the byte lanes of a beat (20_memory R42). -/

namespace Sys2Proof.Machine

/-- `WDATA[0]` of a `CTRL` write: START (10_state R17). -/
def ctrlStart (wdata : Word) : Bool := wdata.getLsbD 0

/-- `WDATA[1]` of a `CTRL` write: STOP (10_state R17). -/
def ctrlStop (wdata : Word) : Bool := wdata.getLsbD 1

/-- `WDATA[2]` of a `CTRL` write: PAD_TO_WORD (10_state R17). -/
def ctrlPad (wdata : Word) : Bool := wdata.getLsbD 2

/-- `WDATA[15:0]`, the MAC octets 0 and 1 (30_encoding R60). -/
def macHiField (wdata : Word) : BitVec 16 := wdata.extractLsb' 0 16

/-- `WDATA[7:0]`, the octet of a `CRC_DATA` write (30_encoding R60). -/
def crcDataOctet (wdata : Word) : Byte := wdata.extractLsb' 0 8

/-- `{16'b0, v}`: a 16-bit register read with its reserved bits 0 (44_register_ops R123). -/
def zextWord (v : BitVec 16) : Word := 0#16 ++ v

/-- Bits 31:0 of a 64-bit register (10_state R16). -/
def lowHalf (v : Count) : Word := v.extractLsb' 0 32

/-- Bits 63:32 of a 64-bit register (10_state R16). -/
def highHalf (v : Count) : Word := v.extractLsb' 32 32

/-- `cfg.DEST_MAC = {DEST_MAC_HI[15:0], DEST_MAC_LO[31:0]}` (10_state R24). -/
def TrafficProfile.destMac (c : TrafficProfile) : BitVec 48 := c.destMacHi ++ c.destMacLo

/-- `cfg.SRC_MAC = {SRC_MAC_HI[15:0], SRC_MAC_LO[31:0]}` (10_state R24). -/
def TrafficProfile.srcMac (c : TrafficProfile) : BitVec 48 := c.srcMacHi ++ c.srcMacLo

/-- `PREAMBLE_SFD`: the source fixes its high 32 bits, `0xFB555555`; the low 32 are the parameter (41_frame_assembler R81). -/
def preambleSfd (p : Params) : BitVec 64 := 0xFB555555#32 ++ p.preambleLow

/-- The octet `v[lo+7 : lo]`. -/
def octetAt {w : Nat} (v : BitVec w) (lo : Nat) : Byte := v.extractLsb' lo 8

/-- The octets of a 32-bit value, most significant first (20_memory R43). -/
def wordOctets (v : Word) : List Byte := [octetAt v 24, octetAt v 16, octetAt v 8, octetAt v 0]

/-- The beat data of up to four octets: octet `j` in lane `j`, bits `31-8j : 24-8j`, and the missing lanes 0 (20_memory R42,
30_encoding R64, 43_serializer R97). -/
def packLanes (os : List Byte) : Word := os.getD 0 0#8 ++ os.getD 1 0#8 ++ os.getD 2 0#8 ++ os.getD 3 0#8

/-- Byte lane `j` of a beat's data (30_encoding R64). -/
def Beat.lane (b : Beat) (j : Nat) : Byte := octetAt b.data (24 - 8 * j)

/-- The 35-bit beat word `{NB, DATA}` (30_encoding R64). -/
def Beat.toWord (b : Beat) : BitVec 35 := b.nb ++ b.data

end Sys2Proof.Machine
end

