-- ==== Sys2Proof/Machine/Flags.lean ====
section
/-! DEFINITION. The status flags and how `CTRL` and `STATUS` read (10_state R17 to R19, R36). CRCGEN has no condition codes. -/

namespace Sys2Proof.Machine

/-- `STATUS.BUSY = (seq.phase != IDLE)` (10_state R18). -/
def State.busy (s : State) : Bool := decide (s.seq.phase ≠ .idle)

/-- The code of `STATUS.ERR` (10_state R19). -/
def ErrCode.code : ErrCode → BitVec 4
  | .none => 0#4
  | .size => 1#4
  | .param => 2#4
  | .range => 3#4

/-- The numeric code of `seq.phase` (10_state R34). No register exposes it. -/
def Phase.code : Phase → Nat
  | .idle => 0
  | .burstTop => 1
  | .frameTop => 2
  | .frame => 3
  | .ifg => 4
  | .eob => 5

/-- What `CTRL` reads: `{29'b0, CTRL.PAD_TO_WORD, seq.stop_req, 1'b0}` (44_register_ops R113). -/
def ctrlWord (s : State) : Word :=
  0#29 ++ BitVec.ofBool s.padToWord ++ BitVec.ofBool s.seq.stopReq ++ 0#1

/-- What `STATUS` reads: `{24'b0, ERR[3:0], 1'b0, CANCELLED, DONE, BUSY}` (44_register_ops R115). -/
def statusWord (s : State) : Word :=
  0#24 ++ s.status.err.code ++ 0#1 ++ BitVec.ofBool s.status.cancelled ++ BitVec.ofBool s.status.done ++ BitVec.ofBool s.busy

end Sys2Proof.Machine
end

