-- ==== Sys2Proof/Machine/Ops.lean ====
section
/-! DEFINITION. The operations the meanings share: answering a read, the configuration lock, an ignored write, emitting a beat,
entering the error state (the block's only exception, 60_exceptions R157) and leaving it (R163), the end of a run, reset, and
taking the next event. CRCGEN has no memory (20_memory R39), so there are no memory operations. -/

namespace Sys2Proof.Machine

/-- What an operation answers. -/
abbrev Answer := Host.Outcome State Fault Refusal

/-! ### One update a field -/

def State.withCfg (s : State) (c : TrafficProfile) : State := { s with cfg := c }
def State.withPad (s : State) (b : Bool) : State := { s with padToWord := b }
def State.withStatus (s : State) (x : Status) : State := { s with status := x }
def State.withPlan (s : State) (p : PlanRegs) : State := { s with plan := p }
def State.withFramesSent (s : State) (n : Count) : State := { s with framesSent := n }
def State.withLastFcs (s : State) (v : Word) : State := { s with lastFcs := v }
def State.withHcrc (s : State) (v : Word) : State := { s with hcrc := v }
def State.withSeq (s : State) (q : Sequencer) : State := { s with seq := q }
def State.withStream (s : State) (bs : List Beat) : State := { s with stream := bs }
def State.withAgent (s : State) (h : HostAgent) : State := { s with agent := h }
def State.withSchedule (s : State) (es : List Event) : State := { s with schedule := es }

/-! ### Bus operations -/

/-- A read returns `RDATA` to the host and changes nothing else (30_encoding R57, 20_memory R49). -/
def respond (rdata : Word) (s : State) : Answer :=
  .next (s.withAgent { s.agent with reads := s.agent.reads ++ [rdata] })

/-- A configuration write: it stores while idle and is ignored while busy (10_state R20 (b)). -/
def writeLocked (store : TrafficProfile → TrafficProfile) (s : State) : Answer :=
  if s.busy then .next s else .next (s.withCfg (store s.cfg))

/-- A write to a read-only or reserved offset: no state changes (10_state R32, 30_encoding R60). -/
def ignoreWrite (s : State) : Answer := .next s

/-! ### The output stream -/

/-- `Emit(data, nbytes)`: the beat goes to the end of the stream (20_memory R50). -/
def State.emit (s : State) (b : Beat) : State := s.withStream (s.stream ++ [b])

/-! ### The error state and the end of a run -/

/-- Entering the error state, `raise E` (60_exceptions R157): `ERR` takes the code, `DONE` is 1, `CANCELLED` is 0, and the phase
stays as it is, which is `IDLE` where START raises. -/
def State.raise (s : State) (e : ErrCode) : State := s.withStatus { done := true, cancelled := false, err := e }

/-- Leaving the error state or an ended run: the next START clears `DONE`, `CANCELLED` and `ERR`, the pending stop, `FRAMES_SENT`
and `LAST_FCS` (60_exceptions R163, 42_burst_plan R96). -/
def State.clearOutcome (s : State) : State :=
  (((s.withStatus Status.clear).withSeq { s.seq with stopReq := false }).withFramesSent 0#64).withLastFcs 0#32

/-- `finish(how)` (43_serializer R107). `ERR` keeps its value. -/
def State.finish (s : State) (cancelled : Bool) : State :=
  (s.withSeq { s.seq with phase := .idle, stopReq := false }).withStatus { s.status with done := true, cancelled := cancelled }

/-! ### Reset and events -/

/-- Reset, an event of the host (70_reset_and_hazards R171, R172): every piece of the block's state to its value of 10_state R38.
The stream is outside the block and keeps its beats; the parameters, the host and the events to come are not the block's
(log 17). -/
def State.resetBlock (s : State) : State :=
  { State.reset with params := s.params, stream := s.stream, agent := s.agent, schedule := s.schedule }

/-- The next event of the total order and the state without it (20_memory R52). -/
def State.takeEvent (s : State) : Option (Event × State) :=
  match s.schedule with
  | [] => none
  | e :: es => some (e, s.withSchedule es)

end Sys2Proof.Machine
end

