-- ==== Sys2Proof/Machine/ConfigRegs.lean ====
section
/-! DEFINITION. The operations of the ten configuration registers (44_register_ops R117 to R136). A read returns the stored value,
during a run too; a write stores while idle and is ignored during a run. -/

namespace Sys2Proof.Machine

/-- `RD.LINE_RATE_GBPS` (44_register_ops R117). -/
def execRdLineRateGbps (s : State) : Answer := respond s.cfg.lineRateGbps s

/-- `WR.LINE_RATE_GBPS`, locked (44_register_ops R118). -/
def execWrLineRateGbps (wdata : Word) (s : State) : Answer := writeLocked (fun c => { c with lineRateGbps := wdata }) s

/-- `RD.CAPTURE_MS` (44_register_ops R119). -/
def execRdCaptureMs (s : State) : Answer := respond s.cfg.captureMs s

/-- `WR.CAPTURE_MS`, locked (44_register_ops R120). -/
def execWrCaptureMs (wdata : Word) (s : State) : Answer := writeLocked (fun c => { c with captureMs := wdata }) s

/-- `RD.MIN_IFG_BYTES` (44_register_ops R121). -/
def execRdMinIfgBytes (s : State) : Answer := respond s.cfg.minIfgBytes s

/-- `WR.MIN_IFG_BYTES`, locked (44_register_ops R122). -/
def execWrMinIfgBytes (wdata : Word) (s : State) : Answer := writeLocked (fun c => { c with minIfgBytes := wdata }) s

/-- `RD.DEST_MAC_HI`: `{16'b0, reg[DEST_MAC_HI][15:0]}` (44_register_ops R123). -/
def execRdDestMacHi (s : State) : Answer := respond (zextWord s.cfg.destMacHi) s

/-- `WR.DEST_MAC_HI`, locked: `WDATA[15:0]` is stored (44_register_ops R124). -/
def execWrDestMacHi (wdata : Word) (s : State) : Answer := writeLocked (fun c => { c with destMacHi := macHiField wdata }) s

/-- `RD.DEST_MAC_LO` (44_register_ops R125). -/
def execRdDestMacLo (s : State) : Answer := respond s.cfg.destMacLo s

/-- `WR.DEST_MAC_LO`, locked (44_register_ops R126). -/
def execWrDestMacLo (wdata : Word) (s : State) : Answer := writeLocked (fun c => { c with destMacLo := wdata }) s

/-- `RD.SRC_MAC_HI`: `{16'b0, reg[SRC_MAC_HI][15:0]}` (44_register_ops R127). -/
def execRdSrcMacHi (s : State) : Answer := respond (zextWord s.cfg.srcMacHi) s

/-- `WR.SRC_MAC_HI`, locked: `WDATA[15:0]` is stored (44_register_ops R128). -/
def execWrSrcMacHi (wdata : Word) (s : State) : Answer := writeLocked (fun c => { c with srcMacHi := macHiField wdata }) s

/-- `RD.SRC_MAC_LO` (44_register_ops R129). -/
def execRdSrcMacLo (s : State) : Answer := respond s.cfg.srcMacLo s

/-- `WR.SRC_MAC_LO`, locked (44_register_ops R130). -/
def execWrSrcMacLo (wdata : Word) (s : State) : Answer := writeLocked (fun c => { c with srcMacLo := wdata }) s

/-- `RD.MAX_FRAME_BYTES` (44_register_ops R131). -/
def execRdMaxFrameBytes (s : State) : Answer := respond s.cfg.maxFrameBytes s

/-- `WR.MAX_FRAME_BYTES`, locked (44_register_ops R132). -/
def execWrMaxFrameBytes (wdata : Word) (s : State) : Answer := writeLocked (fun c => { c with maxFrameBytes := wdata }) s

/-- `RD.FRAMES_PER_BURST` (44_register_ops R133). -/
def execRdFramesPerBurst (s : State) : Answer := respond s.cfg.framesPerBurst s

/-- `WR.FRAMES_PER_BURST`, locked (44_register_ops R134). -/
def execWrFramesPerBurst (wdata : Word) (s : State) : Answer := writeLocked (fun c => { c with framesPerBurst := wdata }) s

/-- `RD.BURST_PERIOD_US` (44_register_ops R135). -/
def execRdBurstPeriodUs (s : State) : Answer := respond s.cfg.burstPeriodUs s

/-- `WR.BURST_PERIOD_US`, locked (44_register_ops R136). -/
def execWrBurstPeriodUs (wdata : Word) (s : State) : Answer := writeLocked (fun c => { c with burstPeriodUs := wdata }) s

end Sys2Proof.Machine
end

