-- ==== Sys2Proof/Machine/Crc.lean ====
section
/-! DEFINITION. The CRC32 function (40_crc32 R68, R69), by its bit-serial definition, and the operations of the host CRC port
(R73 to R78). -/

namespace Sys2Proof.Machine

/-- `CRC_POLY`, the bit-reflected IEEE 802.3 polynomial (00_scope R6). -/
def crcPoly : Word := 0xEDB88320#32

/-- `CRC_INIT` (00_scope R6). -/
def crcInitValue : Word := 0xFFFFFFFF#32

/-- The final XOR with `CRC_XOROUT` (00_scope R6, 40_crc32 R69). -/
def crcFinal (c : Word) : Word := c ^^^ 0xFFFFFFFF#32

/-- One iteration of `CrcUpdate`: shift right by 1, and XOR the polynomial if the low bit was set (40_crc32 R68). -/
def crcShift (c : Word) : Word := if c.getLsbD 0 then (c >>> 1) ^^^ crcPoly else c >>> 1

/-- `n` iterations. -/
def crcShifts : Nat → Word → Word
  | 0, c => c
  | n + 1, c => crcShifts n (crcShift c)

/-- `CrcUpdate(c, b)` (40_crc32 R68): XOR the octet into the low byte, then eight iterations. -/
def crcUpdate (c : Word) (b : Byte) : Word := crcShifts 8 (c ^^^ b.setWidth 32)

/-- `fold(c, b[0..n-1])`, first octet first (40_crc32 R72 (c)). -/
def crcFold (c : Word) (bs : List Byte) : Word := bs.foldl crcUpdate c

/-- `crc32(bytes)` (40_crc32 R69). -/
def crc32 (bs : List Byte) : Word := crcFinal (crcFold crcInitValue bs)

/-! ### The host CRC port -/

/-- `WR.CRC_INIT`: `hcrc <- 0xFFFFFFFF`; the value is ignored (40_crc32 R73). -/
def execWrCrcInit (_wdata : Word) (s : State) : Answer := .next (s.withHcrc crcInitValue)

/-- `WR.CRC_DATA`: `hcrc <- CrcUpdate(hcrc, WDATA[7:0])` (40_crc32 R74). -/
def execWrCrcData (wdata : Word) (s : State) : Answer := .next (s.withHcrc (crcUpdate s.hcrc (crcDataOctet wdata)))

/-- `RD.CRC_RESULT`: `RDATA <- hcrc XOR 0xFFFFFFFF` (40_crc32 R75). -/
def execRdCrcResult (s : State) : Answer := respond (crcFinal s.hcrc) s

/-- `RD.CRC_INIT` reads 0 (40_crc32 R76). -/
def execRdCrcInit (s : State) : Answer := respond 0#32 s

/-- `RD.CRC_DATA` reads 0 (40_crc32 R77). -/
def execRdCrcData (s : State) : Answer := respond 0#32 s

/-- `WR.CRC_RESULT` is ignored (40_crc32 R78). -/
def execWrCrcResult (_wdata : Word) (s : State) : Answer := ignoreWrite s

end Sys2Proof.Machine
end

