-- ==== Sys2Proof/Machine/Frame.lean ====
section
/-! DEFINITION. The frame as a function of the configuration (41_frame_assembler R79 to R86). -/

namespace Sys2Proof.Machine

/-- `MIN_FRAME` (00_scope R6). -/
def minFrame : Nat := 26

/-- `S = cfg.MAX_FRAME_BYTES` as a number (10_state R20, R25). -/
def TrafficProfile.frameBytes (c : TrafficProfile) : Nat := c.maxFrameBytes.toNat

/-- `FrameByte(cfg, i)`, the octets before the FCS (41_frame_assembler R80). -/
def frameByte (p : Params) (c : TrafficProfile) (i : Nat) : Byte :=
  if i ≤ 7 then octetAt (preambleSfd p) (56 - 8 * i)
  else if i ≤ 13 then octetAt c.destMac (40 - 8 * (i - 8))
  else if i ≤ 19 then octetAt c.srcMac (40 - 8 * (i - 14))
  else if i = 20 then octetAt p.etherType 8
  else if i = 21 then octetAt p.etherType 0
  else 0#8

/-- The octets `FrameByte(cfg, 0) ++ … ++ FrameByte(cfg, n-1)`. -/
def bodyPrefix (p : Params) (c : TrafficProfile) (n : Nat) : List Byte := (List.range n).map (frameByte p c)

/-- `Body(cfg)`, `S - 4` octets (41_frame_assembler R80). The spec defines it for `S >= 26` (R86). -/
def frameBody (p : Params) (c : TrafficProfile) : List Byte := bodyPrefix p c (c.frameBytes - 4)

/-- `FCS(cfg) = crc32(Body(cfg))` (41_frame_assembler R83). -/
def frameFcs (p : Params) (c : TrafficProfile) : Word := crc32 (frameBody p c)

/-- `Frame(cfg)`: the body, then the FCS most significant octet first (41_frame_assembler R84). -/
def frameOctets (p : Params) (c : TrafficProfile) : List Byte := frameBody p c ++ wordOctets (frameFcs p c)

end Sys2Proof.Machine
end

