-- ==== Sys2Proof/Machine/Plan.lean ====
section
/-! DEFINITION. The burst plan (42_burst_plan R88), the START checks (R92 to R95) and START itself (R96). Arithmetic is on
unbounded integers (00_scope R8). -/

namespace Sys2Proof.Machine

/-- `B = floor(C * 1000 / P)` (42_burst_plan R88). -/
def planBursts (c : TrafficProfile) : Nat := c.captureMs.toNat * 1000 / c.burstPeriodUs.toNat

/-- `IFGW = ceil(G / 4)` (42_burst_plan R88). -/
def planIfgWords (c : TrafficProfile) : Nat := (c.minIfgBytes.toNat + 3) / 4

/-- `RB = P * R * 1000 - F * S * 8`, which may be negative (42_burst_plan R88). -/
def planRemainingBits (c : TrafficProfile) : Int :=
  (c.burstPeriodUs.toNat : Int) * c.lineRateGbps.toNat * 1000 - (c.framesPerBurst.toNat : Int) * c.maxFrameBytes.toNat * 8

/-- `EOBW = if RB <= 0 then 0 else ceil(RB / 32)` (42_burst_plan R88). -/
def planEobWords (c : TrafficProfile) : Nat :=
  if planRemainingBits c ≤ 0 then 0 else ((planRemainingBits c + 31) / 32).toNat

/-- The plan as the plan registers hold it (10_state R28). -/
def planRegs (c : TrafficProfile) : PlanRegs :=
  { totalBursts := BitVec.ofNat 64 (planBursts c), ifgWords := BitVec.ofNat 32 (planIfgWords c),
    eobWords := BitVec.ofNat 64 (planEobWords c) }

/-- The parameter check fails (42_burst_plan R92). -/
def paramError (c : TrafficProfile) : Bool := decide (c.lineRateGbps = 0#32 ∨ c.burstPeriodUs = 0#32)

/-- The range check fails (42_burst_plan R93). -/
def rangeError (c : TrafficProfile) : Bool :=
  decide (2 ^ 64 ≤ planEobWords c ∨ 2 ^ 64 ≤ planBursts c * c.framesPerBurst.toNat)

/-- The size check fails (42_burst_plan R94). -/
def sizeError (c : TrafficProfile) : Bool :=
  decide (0 < planBursts c ∧ 0 < c.framesPerBurst.toNat ∧ c.frameBytes < minFrame)

/-- The sequencer at the beginning of a run: position all 0, phase `BURST_TOP` (42_burst_plan R96). -/
def Sequencer.begin (q : Sequencer) : Sequencer :=
  { q with phase := .burstTop, burst := 0#64, frame := 0#32, byte := 0#32, fill := 0#64 }

/-- START (42_burst_plan R96), reached only while idle: clear the outcome of the last run, then PARAM, RANGE and SIZE in this
order (R95), then begin the run. -/
def State.start (s : State) : State :=
  let s0 := s.clearOutcome
  if paramError s.cfg then (s0.withPlan PlanRegs.zero).raise .param
  else if rangeError s.cfg then (s0.withPlan PlanRegs.zero).raise .range
  else
    let s1 := s0.withPlan (planRegs s.cfg)
    if sizeError s.cfg then s1.raise .size
    else s1.withSeq (Sequencer.begin s1.seq)

end Sys2Proof.Machine
end

