-- ==== Sys2Proof/Machine/Control.lean ====
section
/-! DEFINITION. The operations of `CTRL` and `STATUS` (44_register_ops R113 to R116). -/

namespace Sys2Proof.Machine

/-- `RD.CTRL` (44_register_ops R113). -/
def execRdCtrl (s : State) : Answer := respond (ctrlWord s) s

/-- What a `CTRL` write does (44_register_ops R114): PAD_TO_WORD, then STOP, then START, each against `busy0`. -/
def State.writeCtrl (s : State) (wdata : Word) : State :=
  let busy0 := s.busy
  let s1 := if busy0 then s else s.withPad (ctrlPad wdata)
  let s2 := if ctrlStop wdata && busy0 then s1.withSeq { s1.seq with stopReq := true } else s1
  if ctrlStart wdata && !busy0 then s2.start else s2

/-- `WR.CTRL` (44_register_ops R114). The write itself always completes. -/
def execWrCtrl (wdata : Word) (s : State) : Answer := .next (s.writeCtrl wdata)

/-- `RD.STATUS` (44_register_ops R115). -/
def execRdStatus (s : State) : Answer := respond (statusWord s) s

/-- `WR.STATUS` is ignored (44_register_ops R116). -/
def execWrStatus (_wdata : Word) (s : State) : Answer := ignoreWrite s

end Sys2Proof.Machine
end

