-- ==== Sys2Proof/Machine/ResultRegs.lean ====
section
/-! DEFINITION. The operations of the plan registers, the frame counter and `LAST_FCS` (44_register_ops R137 to R152), of the
reserved offsets (R153, R154), and the refused transaction (30_encoding R59). -/

namespace Sys2Proof.Machine

/-- `RD.TOTAL_BURSTS_LO` (44_register_ops R137). -/
def execRdTotalBurstsLo (s : State) : Answer := respond (lowHalf s.plan.totalBursts) s

/-- `WR.TOTAL_BURSTS_LO` is ignored (44_register_ops R138). -/
def execWrTotalBurstsLo (_wdata : Word) (s : State) : Answer := ignoreWrite s

/-- `RD.TOTAL_BURSTS_HI` (44_register_ops R139). -/
def execRdTotalBurstsHi (s : State) : Answer := respond (highHalf s.plan.totalBursts) s

/-- `WR.TOTAL_BURSTS_HI` is ignored (44_register_ops R140). -/
def execWrTotalBurstsHi (_wdata : Word) (s : State) : Answer := ignoreWrite s

/-- `RD.IFG_WORDS` (44_register_ops R141). -/
def execRdIfgWords (s : State) : Answer := respond s.plan.ifgWords s

/-- `WR.IFG_WORDS` is ignored (44_register_ops R142). -/
def execWrIfgWords (_wdata : Word) (s : State) : Answer := ignoreWrite s

/-- `RD.EOB_WORDS_LO` (44_register_ops R143). -/
def execRdEobWordsLo (s : State) : Answer := respond (lowHalf s.plan.eobWords) s

/-- `WR.EOB_WORDS_LO` is ignored (44_register_ops R144). -/
def execWrEobWordsLo (_wdata : Word) (s : State) : Answer := ignoreWrite s

/-- `RD.EOB_WORDS_HI` (44_register_ops R145). -/
def execRdEobWordsHi (s : State) : Answer := respond (highHalf s.plan.eobWords) s

/-- `WR.EOB_WORDS_HI` is ignored (44_register_ops R146). -/
def execWrEobWordsHi (_wdata : Word) (s : State) : Answer := ignoreWrite s

/-- `RD.FRAMES_SENT_LO` (44_register_ops R147). -/
def execRdFramesSentLo (s : State) : Answer := respond (lowHalf s.framesSent) s

/-- `WR.FRAMES_SENT_LO` is ignored (44_register_ops R148). -/
def execWrFramesSentLo (_wdata : Word) (s : State) : Answer := ignoreWrite s

/-- `RD.FRAMES_SENT_HI` (44_register_ops R149). -/
def execRdFramesSentHi (s : State) : Answer := respond (highHalf s.framesSent) s

/-- `WR.FRAMES_SENT_HI` is ignored (44_register_ops R150). -/
def execWrFramesSentHi (_wdata : Word) (s : State) : Answer := ignoreWrite s

/-- `RD.LAST_FCS` (44_register_ops R151). -/
def execRdLastFcs (s : State) : Answer := respond s.lastFcs s

/-- `WR.LAST_FCS` is ignored (44_register_ops R152). -/
def execWrLastFcs (_wdata : Word) (s : State) : Answer := ignoreWrite s

/-- `RD.RSVD` reads 0 (44_register_ops R153). -/
def execRdRsvd (_addr : Offset) (s : State) : Answer := respond 0#32 s

/-- `WR.RSVD` is ignored (44_register_ops R154). -/
def execWrRsvd (_addr : Offset) (_wdata : Word) (s : State) : Answer := ignoreWrite s

/-- `MISALIGNED`: no operation and no step; the host is refused, by name and by the address (30_encoding R59). -/
def execMisaligned (_we : Bool) (addr : Offset) (_wdata : Word) (_s : State) : Answer := .refused (.misaligned addr)

end Sys2Proof.Machine
end

