-- ==== Sys2Proof/Machine/Trace.lean ====
section
/-! DEFINITION. What a run emits, as a function (43_serializer R97 to R100), and how the host's sink renders it as text
(30_encoding R65). The sequencer's steps are in Sequencer.lean; that they emit this is a claim (R110). -/

namespace Sys2Proof.Machine

/-- `ceil(S/4)`, the number of beats of a frame (43_serializer R98). -/
def beatsPerFrame (c : TrafficProfile) : Nat := (c.frameBytes + 3) / 4

/-- The byte count of a beat of `n` octets under the padding policy (43_serializer R97). -/
def beatCount (pad : Bool) (n : Nat) : BitVec 3 := if n < 4 ∧ pad = true then 4#3 else BitVec.ofNat 3 n

/-- Beat `k` of a frame (43_serializer R97). -/
def frameBeat (p : Params) (c : TrafficProfile) (pad : Bool) (k : Nat) : Beat :=
  { nb := beatCount pad (min 4 (c.frameBytes - 4 * k)), data := packLanes (((frameOctets p c).drop (4 * k)).take 4) }

/-- `FrameBeats(cfg, PAD)` (43_serializer R97). -/
def frameBeats (p : Params) (c : TrafficProfile) (pad : Bool) : List Beat :=
  (List.range (beatsPerFrame c)).map (frameBeat p c pad)

/-- A filler beat, four times `IFG_OCTET` (43_serializer R99). -/
def fillerBeat : Beat := { nb := 4#3, data := 0x07070707#32 }

/-- `Filler(n)` (43_serializer R99). -/
def filler (n : Nat) : List Beat := List.replicate n fillerBeat

/-- One frame and the inter-frame filler that follows it (43_serializer R100). -/
def frameUnit (p : Params) (c : TrafficProfile) (pad : Bool) (ifgw : Nat) : List Beat := frameBeats p c pad ++ filler ifgw

/-- The first `n` frames of a burst, each with its filler. -/
def frameUnits (p : Params) (c : TrafficProfile) (pad : Bool) (ifgw n : Nat) : List Beat :=
  (List.replicate n (frameUnit p c pad ifgw)).flatten

/-- `BurstBeats` (43_serializer R100). -/
def burstBeats (p : Params) (c : TrafficProfile) (pad : Bool) (r : PlanRegs) : List Beat :=
  frameUnits p c pad r.ifgWords.toNat c.framesPerBurst.toNat ++ filler r.eobWords.toNat

/-- The first `n` bursts. -/
def bursts (p : Params) (c : TrafficProfile) (pad : Bool) (r : PlanRegs) (n : Nat) : List Beat :=
  (List.replicate n (burstBeats p c pad r)).flatten

/-- `Trace`, the beats of a run that ends normally (43_serializer R100). -/
def trace (p : Params) (c : TrafficProfile) (pad : Bool) (r : PlanRegs) : List Beat := bursts p c pad r r.totalBursts.toNat

/-! ### Text -/

/-- How text is rendered: the digits 0 to 15 and the line end. 30_encoding R65 leaves both to the spec's choice, and 93 U9 makes
them parameters (log 21). -/
structure TextStyle where
  digits  : Text
  lineEnd : Text
  deriving DecidableEq, Repr

/-- Uppercase digits and one line feed (30_encoding R65, D14). -/
def TextStyle.spec : TextStyle := { digits := "0123456789ABCDEF".toList, lineEnd := [Char.ofNat 0x0A] }

/-- One octet as two digits, the more significant first. -/
def renderOctet (st : TextStyle) (o : Byte) : Text :=
  [st.digits.getD (o.toNat / 16) '0', st.digits.getD (o.toNat % 16) '0']

/-- A beat as a line of the trace: the first `2*NB` of the 8 digits of `DATA`, then the line end (30_encoding R65). -/
def renderBeat (st : TextStyle) (b : Beat) : Text :=
  ((wordOctets b.data).flatMap (renderOctet st)).take (2 * b.nb.toNat) ++ st.lineEnd

/-- The rendered text of a stream of beats. -/
def renderStream (st : TextStyle) (bs : List Beat) : Text := bs.flatMap (renderBeat st)

end Sys2Proof.Machine
end

