-- ==== Sys2Proof/Machine/Sequencer.lean ====
section
/-! DEFINITION. The sequencer's steps (43_serializer R101 to R107), one beat or one boundary step at a time. -/

namespace Sys2Proof.Machine

/-- The step in phase `BURST_TOP` (43_serializer R102). -/
def State.stepBurstTop (s : State) : State :=
  if s.seq.burst = s.plan.totalBursts then s.finish false
  else if s.seq.stopReq then s.finish true
  else s.withSeq { s.seq with frame := 0#32, phase := .frameTop }

/-- The step in phase `FRAME_TOP` (43_serializer R103). -/
def State.stepFrameTop (s : State) : State :=
  if s.seq.frame = s.cfg.framesPerBurst then s.withSeq { s.seq with fill := s.plan.eobWords, phase := .eob }
  else if s.seq.stopReq then s.finish true
  else s.withSeq { s.seq with byte := 0#32, fcs := crcInitValue, phase := .frame }

/-- One lane of a frame beat (43_serializer R104, the loop's body) for frame octet `i`: a body octet is folded into `seq.fcs`,
and an FCS octet is read from it. The pair is `seq.fcs` and the octets of the beat so far. -/
def frameLane (p : Params) (c : TrafficProfile) (acc : Word × List Byte) (i : Nat) : Word × List Byte :=
  if i + 4 < c.frameBytes then
    (crcUpdate acc.1 (frameByte p c i), acc.2 ++ [frameByte p c i])
  else
    (acc.1, acc.2 ++ [octetAt (crcFinal acc.1) (24 - 8 * (i + 4 - c.frameBytes))])

/-- The lanes `k4 .. k4+n-1` of a frame beat, in emission order (43_serializer R104). -/
def frameLanes (p : Params) (c : TrafficProfile) (fcs : Word) (k4 n : Nat) : Word × List Byte :=
  (List.range' k4 n).foldl (frameLane p c) (fcs, [])

/-- How many octets the next frame beat holds: `min(4, S - k4)` (43_serializer R104). -/
def State.laneCount (s : State) : Nat := min 4 (s.cfg.frameBytes - s.seq.byte.toNat)

/-- The step in phase `FRAME`, the sink being ready (43_serializer R104): emit one frame beat; after the frame's last beat, count
the frame, record its FCS and go to the inter-frame filler. -/
def State.stepFrame (s : State) : State :=
  let n := s.laneCount
  let lanes := frameLanes s.params s.cfg s.seq.fcs s.seq.byte.toNat n
  let byte' := BitVec.ofNat 32 (s.seq.byte.toNat + n)
  let s1 := (s.emit { nb := beatCount s.padToWord n, data := packLanes lanes.2 }).withSeq
    { s.seq with byte := byte', fcs := lanes.1 }
  if byte' = s.cfg.maxFrameBytes then
    ((s1.withFramesSent (s.framesSent + 1#64)).withLastFcs (crcFinal lanes.1)).withSeq
      { s1.seq with fill := s.plan.ifgWords.setWidth 64, phase := .ifg }
  else s1

/-- Emit one filler beat and count it off (43_serializer R105, R106). -/
def State.emitFiller (s : State) : State := (s.emit fillerBeat).withSeq { s.seq with fill := s.seq.fill - 1#64 }

/-- The boundary step of phase `IFG` (43_serializer R105). -/
def State.leaveIfg (s : State) : State := s.withSeq { s.seq with frame := s.seq.frame + 1#32, phase := .frameTop }

/-- The boundary step of phase `EOB` (43_serializer R106). -/
def State.leaveEob (s : State) : State := s.withSeq { s.seq with burst := s.seq.burst + 1#64, phase := .burstTop }

/-- The step in phase `IFG` (43_serializer R105). -/
def State.stepIfg (s : State) : State := if s.seq.fill = 0#64 then s.leaveIfg else s.emitFiller

/-- The step in phase `EOB` (43_serializer R106). -/
def State.stepEob (s : State) : State := if s.seq.fill = 0#64 then s.leaveEob else s.emitFiller

/-- The candidate step emits a beat (43_serializer R104, R105, R106). -/
def State.wantsSink (s : State) : Bool :=
  match s.seq.phase with
  | .idle | .burstTop | .frameTop => false
  | .frame => true
  | .ifg | .eob => decide (s.seq.fill ≠ 0#64)

/-- The candidate step, chosen by `seq.phase`; none while `IDLE` (43_serializer R101). -/
def State.candidate (s : State) : State :=
  match s.seq.phase with
  | .idle => s
  | .burstTop => s.stepBurstTop
  | .frameTop => s.stepFrameTop
  | .frame => s.stepFrame
  | .ifg => s.stepIfg
  | .eob => s.stepEob

/-- The sequencer's turn: a step that emits holds, with the state unchanged, unless the sink is ready; a boundary step is always
enabled (20_memory R50, 43_serializer R101). -/
def State.turn (s : State) (sinkReady : Bool) : State := if s.wantsSink && !sinkReady then s else s.candidate

end Sys2Proof.Machine
end

