-- ==== Sys2Proof/Machine/Dispatch.lean ====
section
/-! DEFINITION. What each host bus operation does: one arm per constructor of Instr, each one call of its meaning. -/

namespace Sys2Proof.Machine

def exec (i : Instr) (s : State) : Host.Outcome State Fault Refusal :=
  match i with
  | .rdCtrl => Sys2Proof.Machine.execRdCtrl s
  | .wrCtrl wdata => Sys2Proof.Machine.execWrCtrl wdata s
  | .rdStatus => Sys2Proof.Machine.execRdStatus s
  | .wrStatus wdata => Sys2Proof.Machine.execWrStatus wdata s
  | .rdLineRateGbps => Sys2Proof.Machine.execRdLineRateGbps s
  | .wrLineRateGbps wdata => Sys2Proof.Machine.execWrLineRateGbps wdata s
  | .rdCaptureMs => Sys2Proof.Machine.execRdCaptureMs s
  | .wrCaptureMs wdata => Sys2Proof.Machine.execWrCaptureMs wdata s
  | .rdMinIfgBytes => Sys2Proof.Machine.execRdMinIfgBytes s
  | .wrMinIfgBytes wdata => Sys2Proof.Machine.execWrMinIfgBytes wdata s
  | .rdDestMacHi => Sys2Proof.Machine.execRdDestMacHi s
  | .wrDestMacHi wdata => Sys2Proof.Machine.execWrDestMacHi wdata s
  | .rdDestMacLo => Sys2Proof.Machine.execRdDestMacLo s
  | .wrDestMacLo wdata => Sys2Proof.Machine.execWrDestMacLo wdata s
  | .rdSrcMacHi => Sys2Proof.Machine.execRdSrcMacHi s
  | .wrSrcMacHi wdata => Sys2Proof.Machine.execWrSrcMacHi wdata s
  | .rdSrcMacLo => Sys2Proof.Machine.execRdSrcMacLo s
  | .wrSrcMacLo wdata => Sys2Proof.Machine.execWrSrcMacLo wdata s
  | .rdMaxFrameBytes => Sys2Proof.Machine.execRdMaxFrameBytes s
  | .wrMaxFrameBytes wdata => Sys2Proof.Machine.execWrMaxFrameBytes wdata s
  | .rdFramesPerBurst => Sys2Proof.Machine.execRdFramesPerBurst s
  | .wrFramesPerBurst wdata => Sys2Proof.Machine.execWrFramesPerBurst wdata s
  | .rdBurstPeriodUs => Sys2Proof.Machine.execRdBurstPeriodUs s
  | .wrBurstPeriodUs wdata => Sys2Proof.Machine.execWrBurstPeriodUs wdata s
  | .rdTotalBurstsLo => Sys2Proof.Machine.execRdTotalBurstsLo s
  | .wrTotalBurstsLo wdata => Sys2Proof.Machine.execWrTotalBurstsLo wdata s
  | .rdTotalBurstsHi => Sys2Proof.Machine.execRdTotalBurstsHi s
  | .wrTotalBurstsHi wdata => Sys2Proof.Machine.execWrTotalBurstsHi wdata s
  | .rdIfgWords => Sys2Proof.Machine.execRdIfgWords s
  | .wrIfgWords wdata => Sys2Proof.Machine.execWrIfgWords wdata s
  | .rdEobWordsLo => Sys2Proof.Machine.execRdEobWordsLo s
  | .wrEobWordsLo wdata => Sys2Proof.Machine.execWrEobWordsLo wdata s
  | .rdEobWordsHi => Sys2Proof.Machine.execRdEobWordsHi s
  | .wrEobWordsHi wdata => Sys2Proof.Machine.execWrEobWordsHi wdata s
  | .rdFramesSentLo => Sys2Proof.Machine.execRdFramesSentLo s
  | .wrFramesSentLo wdata => Sys2Proof.Machine.execWrFramesSentLo wdata s
  | .rdFramesSentHi => Sys2Proof.Machine.execRdFramesSentHi s
  | .wrFramesSentHi wdata => Sys2Proof.Machine.execWrFramesSentHi wdata s
  | .rdLastFcs => Sys2Proof.Machine.execRdLastFcs s
  | .wrLastFcs wdata => Sys2Proof.Machine.execWrLastFcs wdata s
  | .rdCrcInit => Sys2Proof.Machine.execRdCrcInit s
  | .wrCrcInit wdata => Sys2Proof.Machine.execWrCrcInit wdata s
  | .rdCrcData => Sys2Proof.Machine.execRdCrcData s
  | .wrCrcData wdata => Sys2Proof.Machine.execWrCrcData wdata s
  | .rdCrcResult => Sys2Proof.Machine.execRdCrcResult s
  | .wrCrcResult wdata => Sys2Proof.Machine.execWrCrcResult wdata s
  | .rdRsvd addr => Sys2Proof.Machine.execRdRsvd addr s
  | .wrRsvd addr wdata => Sys2Proof.Machine.execWrRsvd addr wdata s
  | .misaligned we addr wdata => Sys2Proof.Machine.execMisaligned we addr wdata s

end Sys2Proof.Machine
end

