-- ==== Sys2Proof/Machine/HostScript.lean ====
section
/-! DEFINITION. The host's tools: the script assembler (30_encoding R66, R67) and the configuration loader (44_register_ops R155),
with the host-side errors of 60_exceptions R158 as refusals. They are pure: no tool touches the block. Reading the text of a script
is in ScriptText.lean. -/

namespace Sys2Proof.Machine

/-! ### Numbers and hexadecimal text -/

/-- A decimal digit. -/
def decDigit (c : Char) : Option Nat := if '0'.toNat ≤ c.toNat ∧ c.toNat ≤ '9'.toNat then some (c.toNat - '0'.toNat) else none

/-- A hexadecimal digit. For a MAC either case is allowed (30_encoding R67). DESIGN CHOICE: either case is allowed in `CRCHEX` text and
in `0x` numbers too, of whose case R66, R67 and 40_crc32 R71 say nothing (log 15). -/
def hexDigit (c : Char) : Option Nat :=
  if '0'.toNat ≤ c.toNat ∧ c.toNat ≤ '9'.toNat then some (c.toNat - '0'.toNat)
  else if 'A'.toNat ≤ c.toNat ∧ c.toNat ≤ 'F'.toNat then some (c.toNat - 'A'.toNat + 10)
  else if 'a'.toNat ≤ c.toNat ∧ c.toNat ≤ 'f'.toNat then some (c.toNat - 'a'.toNat + 10)
  else none

/-- Digits of a base, the most significant first, after a value read so far. -/
def parseDigits (base : Nat) (digit : Char → Option Nat) : Nat → Text → Option Nat
  | acc, [] => some acc
  | acc, c :: cs =>
    match digit c with
    | some d => parseDigits base digit (acc * base + d) cs
    | none => none

/-- A decimal number: one digit or more. -/
def parseDecimal (t : Text) : Option Nat := if t.isEmpty then none else parseDigits 10 decDigit 0 t

/-- Whole octets of hexadecimal text, first octet first; none for an odd count or a digit that is not hexadecimal (40_crc32 R71). -/
def parseOctets : Text → Option (List Byte)
  | [] => some []
  | [_] => none
  | a :: b :: rest =>
    match hexDigit a, hexDigit b, parseOctets rest with
    | some x, some y, some os => some (BitVec.ofNat 8 (16 * x + y) :: os)
    | _, _, _ => none

/-- Exactly 12 hexadecimal digits, read as one number (10_state R24, 30_encoding R67). -/
def parseMac (t : Text) : Option (BitVec 48) :=
  if t.length = 12 then (parseDigits 16 hexDigit 0 t).map (BitVec.ofNat 48) else none

/-! ### The script assembler -/

/-- `RD` of a register as a line of the host's program (30_encoding R66). -/
def agentRead (r : RegName) : AgentLine := .transaction (busRead r.offset)

/-- `WR` of a register as a line of the host's program (30_encoding R66). -/
def agentWrite (r : RegName) (v : Word) : AgentLine := .transaction (busWrite r.offset v)

/-- The offset that `RD` and `WR` name; a numeric one whose bits 1:0 are not `00` is refused (30_encoding R59, R66). -/
def resolveTarget : ScriptTarget → Except Refusal Offset
  | .register r => .ok r.offset
  | .offset a => if Offset.aligned a then .ok a else .error (.misaligned a)

/-- A number as a 32-bit value; one outside `0..2^32-1` is refused (30_encoding R66 for `WR`, D28). DESIGN CHOICE: the numbers of
`BNE` are held to the same range (log 23). -/
def wordOf (v : Int) : Except Refusal Word :=
  if 0 ≤ v ∧ v < 2 ^ 32 then .ok (BitVec.ofInt 32 v) else .error (.immediateOutOfRange v)

/-- `SETMAC`: the `_HI` and the `_LO` write of a MAC (30_encoding R67). -/
def expandSetMac (hi lo : RegName) (hex : Text) : Except Refusal (List AgentLine) :=
  match parseMac hex with
  | some m => .ok [agentWrite hi (m.extractLsb' 32 16 |>.setWidth 32), agentWrite lo (m.extractLsb' 0 32)]
  | none => .error .malformedHex

/-- One `CRC_DATA` write per octet, first octet first (30_encoding R67: `CRCHEX`, `CRCSTR`). -/
def expandCrcOctets (os : List Byte) : List AgentLine := os.map (fun o => agentWrite .crcData (o.setWidth 32))

/-- The `_HI` register of a name. -/
def PairName.hi : PairName → RegName
  | .destMac => .destMacHi
  | .srcMac => .srcMacHi
  | .totalBursts => .totalBurstsHi
  | .eobWords => .eobWordsHi
  | .framesSent => .framesSentHi

/-- The `_LO` register of a name. -/
def PairName.lo : PairName → RegName
  | .destMac => .destMacLo
  | .srcMac => .srcMacLo
  | .totalBursts => .totalBurstsLo
  | .eobWords => .eobWordsLo
  | .framesSent => .framesSentLo

/-- The expansion of the operation at index `n` of the script (30_encoding R66, R67). The branch targets in it are still indexes
into the script; `WAITDONE` branches to itself. -/
def expandOp (n : Nat) : ScriptOp → Except Refusal (List AgentLine)
  | .rd t => do
    let a ← resolveTarget t
    .ok [.transaction (busRead a)]
  | .wr t imm => do
    let a ← resolveTarget t
    let v ← wordOf imm
    .ok [.transaction (busWrite a v)]
  | .bne r mask value label => do
    let m ← wordOf mask
    let v ← wordOf value
    .ok [.branch (busRead r.offset) m v label]
  | .setMac .dest hex => expandSetMac .destMacHi .destMacLo hex
  | .setMac .src hex => expandSetMac .srcMacHi .srcMacLo hex
  | .start pad => .ok [agentWrite .ctrl (if pad then 0x5#32 else 0x1#32)]
  | .stop => .ok [agentWrite .ctrl 0x2#32]
  | .waitDone => .ok [.branch (busRead (RegName.offset .status)) 0x3#32 0x2#32 n]
  | .crcReset => .ok [agentWrite .crcInit 0#32]
  | .crcHex hex =>
    match parseOctets hex with
    | some os => .ok (expandCrcOctets os)
    | none => .error .malformedHex
  | .crcStr codes => .ok (expandCrcOctets codes)
  | .rd64 p => .ok [agentRead p.lo, agentRead p.hi]

/-- The expansions of the operations from index `n` on; the first one refused is the one reported (log 16). -/
def expandAll : Nat → List ScriptOp → Except Refusal (List (List AgentLine))
  | _, [] => .ok []
  | n, o :: os => do
    let e ← expandOp n o
    let es ← expandAll (n + 1) os
    .ok (e :: es)

/-- Where the expansion of operation `k` begins in the program. -/
def lineOf (es : List (List AgentLine)) (k : Nat) : Nat := (es.take k).flatten.length

/-- A line with its branch target moved from an operation of the script to a line of the program. -/
def AgentLine.retarget (line : Nat → Nat) : AgentLine → AgentLine
  | .transaction t => .transaction t
  | .branch rd m v k => .branch rd m v (line k)

/-- The host assembler (30_encoding R66, R67): the program of a script, or a refusal with nothing issued (60_exceptions R158). -/
def assemble (ops : List ScriptOp) : Except Refusal (List AgentLine) := do
  let es ← expandAll 0 ops
  .ok (es.flatten.map (AgentLine.retarget (lineOf es)))

/-! ### The configuration loader -/

/-- The value of a key in a record: the one it holds, or, where the record holds the key more than once, the occurrence that the
free value picks (log 14). Keys that no lookup asks for are ignored (44_register_ops R155 (a)). -/
def recordValue (kvs : List (Text × Text)) (key : Text) : Option Text :=
  match (kvs.filter (fun kv => kv.1 == key)).map Prod.snd with
  | [] => none
  | [v] => some v
  | vs => vs[Config.repeatedKeyChoice vs.length % vs.length]?

/-- An integer key (44_register_ops R155 (b), (c)): 0 if it is missing; a value that is no decimal integer in `0..2^32-1` is a
ConfigurationError. -/
def recordInt (kvs : List (Text × Text)) (key : Text) : Except Refusal Word :=
  match recordValue kvs key with
  | none => .ok 0#32
  | some t =>
    match parseDecimal t with
    | some v => if v < 2 ^ 32 then .ok (BitVec.ofNat 32 v) else .error .configurationError
    | none => .error .configurationError

/-- A MAC key (44_register_ops R155 (d)): missing, or not 12 hexadecimal digits, is a MalformedHexError. -/
def recordMac (kvs : List (Text × Text)) (key : Text) : Except Refusal (BitVec 48) :=
  match recordValue kvs key with
  | none => .error .malformedHex
  | some t =>
    match parseMac t with
    | some m => .ok m
    | none => .error .malformedHex

/-- The register writes of a configuration record (44_register_ops R155), every register written, in the table's order; an
unreadable record is a ConfigurationError (R155 (e)). A refused record writes no register. -/
def loaderWrites : Option (List (Text × Text)) → Except Refusal (List AgentLine)
  | none => .error .configurationError
  | some kvs => do
    let r ← recordInt kvs "lineRateGbps".toList
    let c ← recordInt kvs "captureDurationMs".toList
    let g ← recordInt kvs "minIfgBytesPerFrame".toList
    let dm ← recordMac kvs "destMac".toList
    let sm ← recordMac kvs "srcMac".toList
    let sz ← recordInt kvs "maxFrameSizeBytes".toList
    let f ← recordInt kvs "framesPerBurst".toList
    let p ← recordInt kvs "burstPeriodUs".toList
    .ok [agentWrite .lineRateGbps r, agentWrite .captureMs c, agentWrite .minIfgBytes g,
      agentWrite .destMacHi (dm.extractLsb' 32 16 |>.setWidth 32), agentWrite .destMacLo (dm.extractLsb' 0 32),
      agentWrite .srcMacHi (sm.extractLsb' 32 16 |>.setWidth 32), agentWrite .srcMacLo (sm.extractLsb' 0 32),
      agentWrite .maxFrameBytes sz, agentWrite .framesPerBurst f, agentWrite .burstPeriodUs p]

/-- The host takes a new script and will run it from its first line; or the tool refused, and nothing is issued (60_exceptions
R158). -/
def State.takeScript (s : State) : Except Refusal (List AgentLine) → Answer
  | .ok program => .next (s.withAgent { s.agent with program := program, pc := 0 })
  | .error e => .refused e

end Sys2Proof.Machine
end

