-- ==== Sys2Proof/Machine/Agent.lean ====
section
/-! DEFINITION. The host's turn: it runs the next line of its script (30_encoding R66). Every transaction is the operation its
word decodes to (R58). -/

namespace Sys2Proof.Machine

/-- A transaction is applied: the operation that its word spells (30_encoding R57, R58). -/
def applyTransaction (t : Transaction) (s : State) : Answer := exec (decode t) s

/-- The host goes to a line of its script. -/
def State.goto (s : State) (line : Nat) : State := s.withAgent { s.agent with pc := line }

/-- `BNE`: the branch goes to its label if `(v AND mask) != value` (30_encoding R66). -/
def branchTaken (v mask value : Word) : Bool := decide (v &&& mask ≠ value)

/-- The next line after a branch whose read left its value as the last one returned. -/
def State.afterBranch (s : State) (mask value : Word) (target : Nat) : State :=
  match s.agent.reads.getLast? with
  | some v => if branchTaken v mask value then s.goto target else s.goto (s.agent.pc + 1)
  | none => s.goto (s.agent.pc + 1)

/-- The host runs the line at its place in the script; past the end it waits, and nothing changes. A branch is one read and host
control flow (30_encoding R66), in one step (log 5). -/
def runAgent (s : State) : Answer :=
  match s.agent.program[s.agent.pc]? with
  | none => .next s
  | some (.transaction t) => applyTransaction t (s.goto (s.agent.pc + 1))
  | some (.branch rd mask value target) =>
    match applyTransaction rd s with
    | .next s' => .next (s'.afterBranch mask value target)
    | .fault f => .fault f
    | .refused r => .refused r

/-- What an event does to the state it is taken from. -/
def applyEvent : Event → State → Answer
  | .transaction t, s => applyTransaction t s
  | .hostTurn, s => runAgent s
  | .sequencerTurn sinkReady, s => .next (s.turn sinkReady)
  | .reset, s => .next s.resetBlock
  | .script ops, s => s.takeScript (assemble ops)
  | .record r, s => s.takeScript (loaderWrites r)

end Sys2Proof.Machine
end

