-- ==== Sys2Proof/Machine/Step.lean ====
section
/-! DEFINITION. One step of the machine: the next event of the schedule, whole and atomic (20_memory R52, 70_reset_and_hazards
R179). CRCGEN fetches no instruction (10_state R15): an instruction is the transaction that the schedule brings next. -/

namespace Sys2Proof.Machine

/-- One step: take the next event and apply it. With no event to come, nothing happens (log 2). -/
def step (s : State) : Host.Outcome State Fault Refusal :=
  match s.takeEvent with
  | none => .next s
  | some (e, s') => applyEvent e s'

/-- The state with an instruction word as the very next event, a transaction of the host. -/
def State.withFetchWord (s : State) (nbits w : Nat) : State :=
  s.withSchedule (.transaction (BitVec.ofNat 41 (w % 2 ^ nbits)) :: s.schedule)

end Sys2Proof.Machine
end

