-- ==== Sys2Proof/Safety.lean ====
section
/-! DEFINITION. What claims are stated in: the position of a run as beats, the invariant of the machine (10_state R35, R18, R33,
30_encoding R64), runs of several operations, and what the text given to the host's tools spells. -/

namespace Sys2Proof.Machine

/-! ### Runs -/

/-- Operations one after another, with nothing between them. -/
def execAll : List Instr → State → Answer
  | [], s => .next s
  | i :: is, s =>
    match exec i s with
    | .next s' => execAll is s'
    | .fault f => .fault f
    | .refused r => .refused r

/-- A read answers: the operation completes, the host gets the value, and nothing else changes. -/
def Answers (i : Instr) (s : State) (v : Word) : Prop :=
  exec i s = .next { s with agent := { s.agent with reads := s.agent.reads ++ [v] } }

/-- The state of the machine with the events to come replaced. -/
def State.under (s : State) (es : List Event) : State := { s with schedule := es }

/-! ### The position of a run -/

/-- `F` as a number. -/
def State.framesPerBurst (s : State) : Nat := s.cfg.framesPerBurst.toNat

/-- `B` as a number. -/
def State.totalBursts (s : State) : Nat := s.plan.totalBursts.toNat

/-- The trace of the run (43_serializer R100). -/
def State.runTrace (s : State) : List Beat := trace s.params s.cfg s.padToWord s.plan

/-- The beats of the first `b` bursts and then of the first `f` frames with their filler: what stands before frame `f` of burst
`b` (43_serializer R109). -/
def State.before (s : State) (b f : Nat) : List Beat :=
  bursts s.params s.cfg s.padToWord s.plan b ++ frameUnits s.params s.cfg s.padToWord s.plan.ifgWords.toNat f

/-- The beats of the current burst up to the position tuple of 10_state R15. -/
def State.burstProgress (s : State) : List Beat :=
  match s.seq.phase with
  | .idle | .burstTop => []
  | .frameTop => frameUnits s.params s.cfg s.padToWord s.plan.ifgWords.toNat s.seq.frame.toNat
  | .frame =>
    frameUnits s.params s.cfg s.padToWord s.plan.ifgWords.toNat s.seq.frame.toNat ++
      (frameBeats s.params s.cfg s.padToWord).take (s.seq.byte.toNat / 4)
  | .ifg =>
    frameUnits s.params s.cfg s.padToWord s.plan.ifgWords.toNat s.seq.frame.toNat ++
      frameBeats s.params s.cfg s.padToWord ++ filler (s.plan.ifgWords.toNat - s.seq.fill.toNat)
  | .eob =>
    frameUnits s.params s.cfg s.padToWord s.plan.ifgWords.toNat s.framesPerBurst ++
      filler (s.plan.eobWords.toNat - s.seq.fill.toNat)

/-- The beats that a run has emitted when it stands at its position tuple. -/
def State.progress (s : State) : List Beat :=
  bursts s.params s.cfg s.padToWord s.plan s.seq.burst.toNat ++ s.burstProgress

/-- How many frames a run has emitted when it stands at its position tuple. At `BURST_TOP` it is `seq.burst * F`: 10_state R35 (e)
adds `seq.frame` there, which the steps of 43_serializer do not bear out (log 9). -/
def State.framesDone (s : State) : Nat :=
  match s.seq.phase with
  | .idle | .burstTop => s.seq.burst.toNat * s.framesPerBurst
  | .frameTop | .frame | .eob => s.seq.burst.toNat * s.framesPerBurst + s.seq.frame.toNat
  | .ifg => s.seq.burst.toNat * s.framesPerBurst + s.seq.frame.toNat + 1

/-- The beats and boundary steps of a normal run (43_serializer R110 (b)). -/
def State.runSteps (s : State) : Nat :=
  s.runTrace.length + s.totalBursts * (2 * s.framesPerBurst + 3) + 1

/-! ### Text that the host's tools take -/

/-- The number that a text of one decimal digit or more spells, the most significant digit first. -/
def decimalValue (t : Text) : Option Nat :=
  if t ≠ [] ∧ t.all Char.isDigit = true then some (t.foldl (fun n c => 10 * n + (c.toNat - 48)) 0) else none

/-- A text is 12 hexadecimal digits, and digit `j` from its start is nibble `j` from the top of an address (10_state R24). -/
def SpellsMac (t : Text) (m : BitVec 48) : Prop :=
  t.length = 12 ∧ ∀ j, j < 12 → ∃ c, t[j]? = some c ∧ hexDigit c = some (m.extractLsb' (44 - 4 * j) 4).toNat

/-- A record gives a register the value of an integer key: 0 if it lacks the key, else the decimal number that an occurrence of the
key spells (44_register_ops R155 (b), (c)). -/
def GivesInt (kvs : List (Text × Text)) (key : String) (v : Word) : Prop :=
  (v = 0#32 ∧ ∀ t, (key.toList, t) ∉ kvs) ∨ ∃ t, (key.toList, t) ∈ kvs ∧ decimalValue t = some v.toNat

/-- A record gives an address: an occurrence of the key spells it (44_register_ops R155 (d)). -/
def GivesMac (kvs : List (Text × Text)) (key : String) (m : BitVec 48) : Prop :=
  ∃ t, (key.toList, t) ∈ kvs ∧ SpellsMac t m

/-- The integer keys of a configuration record (44_register_ops R155). -/
def integerKeys : List String :=
  ["lineRateGbps", "captureDurationMs", "minIfgBytesPerFrame", "maxFrameSizeBytes", "framesPerBurst", "burstPeriodUs"]

/-- The MAC keys of a configuration record (44_register_ops R155). -/
def macKeys : List String := ["destMac", "srcMac"]

/-! ### The invariant -/

/-- A beat as 30_encoding R64 allows it: `NB` in `1..4`, and lanes `NB..3` 0. -/
def Beat.wellFormed (b : Beat) : Prop := 1 ≤ b.nb.toNat ∧ b.nb.toNat ≤ 4 ∧ ∀ j, b.nb.toNat ≤ j → j < 4 → b.lane j = 0#8

/-- The invariant of CRCGEN. -/
structure State.Inv (s : State) : Prop where
  /-- `BUSY` and `DONE` never hold together (10_state R18). -/
  busy_not_done : s.busy = true → s.status.done = false
  /-- `ERR != 0` implies `DONE = 1`, `BUSY = 0` and `CANCELLED = 0` (10_state R18). -/
  error_ended : s.status.err ≠ .none → s.status.done = true ∧ s.busy = false ∧ s.status.cancelled = false
  /-- `CANCELLED` is set only where `DONE` is (43_serializer R107). -/
  cancelled_done : s.status.cancelled = true → s.status.done = true
  /-- A stop is pending only during a run (44_register_ops R113). -/
  stop_busy : s.seq.stopReq = true → s.busy = true
  /-- A run has passed the checks of START and runs by the plan START computed (42_burst_plan R96, 10_state R28). -/
  run_checked : s.busy = true →
    paramError s.cfg = false ∧ rangeError s.cfg = false ∧ sizeError s.cfg = false ∧ s.plan = planRegs s.cfg
  /-- 10_state R35 (b). -/
  burst_bound : s.busy = true → s.seq.burst.toNat ≤ s.totalBursts ∧ (s.seq.phase ≠ .burstTop → s.seq.burst.toNat < s.totalBursts)
  /-- 10_state R35 (c); in `EOB` all frames of the burst are done. -/
  frame_bound : s.busy = true →
    s.seq.frame.toNat ≤ s.framesPerBurst ∧
    (s.seq.phase = .frame ∨ s.seq.phase = .ifg → s.seq.frame.toNat < s.framesPerBurst) ∧
    (s.seq.phase = .eob → s.seq.frame.toNat = s.framesPerBurst)
  /-- 10_state R35 (d) and the range of R33. -/
  byte_bound : s.busy = true →
    s.seq.byte.toNat ≤ s.cfg.frameBytes ∧ (s.seq.phase = .frame → s.seq.byte.toNat < s.cfg.frameBytes ∧ s.seq.byte.toNat % 4 = 0)
  /-- The range of `seq.fill` (10_state R33). -/
  fill_bound :
    (s.seq.phase = .ifg → s.seq.fill.toNat ≤ s.plan.ifgWords.toNat) ∧ (s.seq.phase = .eob → s.seq.fill.toNat ≤ s.plan.eobWords.toNat)
  /-- 10_state R35 (e), at `BURST_TOP` without `seq.frame` (log 9). -/
  sent_counts : s.busy = true → s.framesSent.toNat = s.framesDone
  /-- `seq.fcs` is the CRC register over the body octets emitted so far (43_serializer R104, 41_frame_assembler R83). -/
  fcs_folds : s.seq.phase = .frame →
    s.seq.fcs = crcFold crcInitValue (bodyPrefix s.params s.cfg (min s.seq.byte.toNat (s.cfg.frameBytes - 4)))
  /-- `LAST_FCS` is the FCS of the run's frames once one is sent, and 0 before (10_state R30, 41_frame_assembler R85). -/
  last_fcs : s.busy = true → s.lastFcs = if s.framesSent = 0#64 then 0#32 else frameFcs s.params s.cfg
  /-- Every beat is one that 30_encoding R64 allows. -/
  beats_formed : ∀ b ∈ s.stream, b.wellFormed

end Sys2Proof.Machine
end

