-- ==== Sys2Proof/Certificates/Slice0/Obligations.lean ====
section
/-! DEFINITION. The statements about CRCGEN for the provers. Each cites the rule of spec/ it formalises in OBLIGATIONS.json. -/

open Sys2Proof Sys2Proof.Machine

/-- O1. Decode and encode agree on every well-formed operation (30_encoding.md §1, 10_state.md §3). -/
def Obligations.DecodingAnEncodedOperationGivesItBack : Prop :=
  ∀ i : Instr, i.wellFormed = true → decode (encode i) = i

/-- O2. Every transaction word is the word of the operation it decodes to, but for the ignored WDATA of a read (30_encoding.md
§1). -/
def Obligations.EncodingADecodedWordGivesTheWordBack : Prop :=
  ∀ t : Transaction, (decode t).wellFormed = true ∧
    encode (decode t) = if t.extractLsb' 32 2 = 0#2 ∧ t.getLsbD 40 = false then 0#1 ++ t.extractLsb' 32 8 ++ 0#32 else t

/-- O3. The opcode map: one operation per (WE, ADDR) pair with ADDR[1:0] = 00 (R61). -/
def Obligations.OpcodeMapSelectsTheOperation : Prop :=
  ∀ x : Word,
    (decode (0#1 ++ 0x00#8 ++ x) = .rdCtrl ∧ decode (1#1 ++ 0x00#8 ++ x) = .wrCtrl x) ∧
    (decode (0#1 ++ 0x04#8 ++ x) = .rdStatus ∧ decode (1#1 ++ 0x04#8 ++ x) = .wrStatus x) ∧
    (decode (0#1 ++ 0x08#8 ++ x) = .rdLineRateGbps ∧ decode (1#1 ++ 0x08#8 ++ x) = .wrLineRateGbps x) ∧
    (decode (0#1 ++ 0x0C#8 ++ x) = .rdCaptureMs ∧ decode (1#1 ++ 0x0C#8 ++ x) = .wrCaptureMs x) ∧
    (decode (0#1 ++ 0x10#8 ++ x) = .rdMinIfgBytes ∧ decode (1#1 ++ 0x10#8 ++ x) = .wrMinIfgBytes x) ∧
    (decode (0#1 ++ 0x14#8 ++ x) = .rdDestMacHi ∧ decode (1#1 ++ 0x14#8 ++ x) = .wrDestMacHi x) ∧
    (decode (0#1 ++ 0x18#8 ++ x) = .rdDestMacLo ∧ decode (1#1 ++ 0x18#8 ++ x) = .wrDestMacLo x) ∧
    (decode (0#1 ++ 0x1C#8 ++ x) = .rdSrcMacHi ∧ decode (1#1 ++ 0x1C#8 ++ x) = .wrSrcMacHi x) ∧
    (decode (0#1 ++ 0x20#8 ++ x) = .rdSrcMacLo ∧ decode (1#1 ++ 0x20#8 ++ x) = .wrSrcMacLo x) ∧
    (decode (0#1 ++ 0x24#8 ++ x) = .rdMaxFrameBytes ∧ decode (1#1 ++ 0x24#8 ++ x) = .wrMaxFrameBytes x) ∧
    (decode (0#1 ++ 0x28#8 ++ x) = .rdFramesPerBurst ∧ decode (1#1 ++ 0x28#8 ++ x) = .wrFramesPerBurst x) ∧
    (decode (0#1 ++ 0x2C#8 ++ x) = .rdBurstPeriodUs ∧ decode (1#1 ++ 0x2C#8 ++ x) = .wrBurstPeriodUs x) ∧
    (decode (0#1 ++ 0x30#8 ++ x) = .rdTotalBurstsLo ∧ decode (1#1 ++ 0x30#8 ++ x) = .wrTotalBurstsLo x) ∧
    (decode (0#1 ++ 0x34#8 ++ x) = .rdTotalBurstsHi ∧ decode (1#1 ++ 0x34#8 ++ x) = .wrTotalBurstsHi x) ∧
    (decode (0#1 ++ 0x38#8 ++ x) = .rdIfgWords ∧ decode (1#1 ++ 0x38#8 ++ x) = .wrIfgWords x) ∧
    (decode (0#1 ++ 0x3C#8 ++ x) = .rdEobWordsLo ∧ decode (1#1 ++ 0x3C#8 ++ x) = .wrEobWordsLo x) ∧
    (decode (0#1 ++ 0x40#8 ++ x) = .rdEobWordsHi ∧ decode (1#1 ++ 0x40#8 ++ x) = .wrEobWordsHi x) ∧
    (decode (0#1 ++ 0x44#8 ++ x) = .rdFramesSentLo ∧ decode (1#1 ++ 0x44#8 ++ x) = .wrFramesSentLo x) ∧
    (decode (0#1 ++ 0x48#8 ++ x) = .rdFramesSentHi ∧ decode (1#1 ++ 0x48#8 ++ x) = .wrFramesSentHi x) ∧
    (decode (0#1 ++ 0x4C#8 ++ x) = .rdLastFcs ∧ decode (1#1 ++ 0x4C#8 ++ x) = .wrLastFcs x) ∧
    (decode (0#1 ++ 0x50#8 ++ x) = .rdCrcInit ∧ decode (1#1 ++ 0x50#8 ++ x) = .wrCrcInit x) ∧
    (decode (0#1 ++ 0x54#8 ++ x) = .rdCrcData ∧ decode (1#1 ++ 0x54#8 ++ x) = .wrCrcData x) ∧
    (decode (0#1 ++ 0x58#8 ++ x) = .rdCrcResult ∧ decode (1#1 ++ 0x58#8 ++ x) = .wrCrcResult x) ∧
    ∀ a : Offset, a.extractLsb' 0 2 = 0#2 → 0x5C ≤ a.toNat →
      decode (0#1 ++ a ++ x) = .rdRsvd a ∧ decode (1#1 ++ a ++ x) = .wrRsvd a x

/-- O4. Some words of the spec's programs P1 to P4, and one misaligned word, decode to their operations (95_test_vectors.md L3,
30_encoding.md §1). -/
def Obligations.WordsOfTheSpecsProgramsDecode : Prop :=
  decode 0x15400000031#41 = .wrCrcData 0x31#32 ∧ decode 0x05800000000#41 = .rdCrcResult ∧
    decode 0x1080000000A#41 = .wrLineRateGbps 10#32 ∧ decode 0x118CCDDEEFF#41 = .wrDestMacLo 0xCCDDEEFF#32 ∧
    decode 0x10000000005#41 = .wrCtrl 5#32 ∧ decode 0x00400000000#41 = .rdStatus ∧
    decode 0x04000000000#41 = .rdEobWordsHi ∧ decode 0x12C000003E8#41 = .wrBurstPeriodUs 1000#32 ∧
    decode 0x04C00000000#41 = .rdLastFcs ∧ decode 0x00100000000#41 = .misaligned false 1#8 0#32

/-- O5. A transaction with ADDR[1:0] other than 00 is refused by name and address, and every other one completes (R59). -/
def Obligations.MisalignedTransactionsAreTheOnlyRefusedOnes : Prop :=
  (∀ (t : Transaction) (s : State), t.extractLsb' 32 2 ≠ 0#2 → exec (decode t) s = .refused (.misaligned (t.extractLsb' 32 8))) ∧
    (∀ (we : Bool) (a : Offset) (x : Word) (s : State), exec (.misaligned we a x) s = .refused (.misaligned a)) ∧
    (∀ (t : Transaction) (s : State), t.extractLsb' 32 2 = 0#2 → ∃ s', exec (decode t) s = .next s')

/-- O6. A step takes the next event of the schedule and applies it: a transaction runs the operation its word decodes to
(20_memory.md §5, 30_encoding.md §1, 70_reset_and_hazards.md §4, log 1, log 2). -/
def Obligations.StepAppliesTheNextEvent : Prop :=
  ∀ (s : State) (es : List Event),
    (∀ t, s.schedule = .transaction t :: es → step s = exec (decode t) (s.under es)) ∧
    (∀ i, i.wellFormed = true → s.schedule = .transaction (encode i) :: es → step s = exec i (s.under es)) ∧
    (∀ ready, s.schedule = .sequencerTurn ready :: es → step s = .next ((s.under es).turn ready)) ∧
    (s.schedule = .reset :: es → step s = .next (s.under es).resetBlock) ∧
    (∀ ls, s.schedule = .script ls :: es → step s = (s.under es).takeScript (assemble ls)) ∧
    (∀ r, s.schedule = .record r :: es → step s = (s.under es).takeScript (loaderWrites r)) ∧
    (s.schedule = .hostTurn :: es → step s = runAgent (s.under es)) ∧
    (s.schedule = [] → step s = .next s)

/-- O7. RD.CTRL reads PAD_TO_WORD and the pending stop (R113). -/
def Obligations.ControlRegisterReads : Prop :=
  (∀ x : Word, decode (0#1 ++ 0x00#8 ++ x) = .rdCtrl) ∧
    (∀ s : State, Answers .rdCtrl s (0#29 ++ BitVec.ofBool s.padToWord ++ BitVec.ofBool s.seq.stopReq ++ 0#1)) ∧
    (∀ s : State, s.Inv → s.seq.stopReq = true → s.seq.phase ≠ .idle) ∧
    (∀ s : State, s.seq.phase = .idle → (s.writeCtrl 0x5#32).seq.phase ≠ .idle →
      Answers .rdCtrl (s.writeCtrl 0x5#32) 0x4#32)

/-- O8. RD.STATUS reads ERR, CANCELLED, DONE and BUSY (R115). -/
def Obligations.StatusRegisterReads : Prop :=
  (∀ x : Word, decode (0#1 ++ 0x04#8 ++ x) = .rdStatus) ∧
    (∀ s : State, ∃ v : Word, Answers .rdStatus s v ∧
      v.extractLsb' 8 24 = 0#24 ∧ v.extractLsb' 4 4 = s.status.err.code ∧ v.getLsbD 3 = false ∧
      v.getLsbD 2 = s.status.cancelled ∧ v.getLsbD 1 = s.status.done ∧ (v.getLsbD 0 = true ↔ s.seq.phase ≠ .idle) ∧
      (s.Inv → ¬(v.getLsbD 0 = true ∧ v.getLsbD 1 = true))) ∧
    Answers .rdStatus State.reset 0x0#32 ∧
    (∀ s : State, s.seq.phase = .idle →
      (s.status = ⟨true, false, .size⟩ → Answers .rdStatus s 0x12#32) ∧
      (s.status = ⟨true, false, .param⟩ → Answers .rdStatus s 0x22#32) ∧
      (s.status = ⟨true, false, .range⟩ → Answers .rdStatus s 0x32#32) ∧
      (s.status = ⟨true, false, .none⟩ → Answers .rdStatus s 0x02#32) ∧
      (s.status = ⟨true, true, .none⟩ → Answers .rdStatus s 0x06#32))

/-- O9. A read of a configuration register returns its stored value, in every state (R117, R119, R121, R123, R125, R127, R129,
R131, R133, R135). -/
def Obligations.ConfigurationReadsReturnTheStoredValue : Prop :=
  (∀ x : Word,
      decode (0#1 ++ 0x08#8 ++ x) = .rdLineRateGbps ∧
      decode (0#1 ++ 0x0C#8 ++ x) = .rdCaptureMs ∧
      decode (0#1 ++ 0x10#8 ++ x) = .rdMinIfgBytes ∧
      decode (0#1 ++ 0x14#8 ++ x) = .rdDestMacHi ∧
      decode (0#1 ++ 0x18#8 ++ x) = .rdDestMacLo ∧
      decode (0#1 ++ 0x1C#8 ++ x) = .rdSrcMacHi ∧
      decode (0#1 ++ 0x20#8 ++ x) = .rdSrcMacLo ∧
      decode (0#1 ++ 0x24#8 ++ x) = .rdMaxFrameBytes ∧
      decode (0#1 ++ 0x28#8 ++ x) = .rdFramesPerBurst ∧
      decode (0#1 ++ 0x2C#8 ++ x) = .rdBurstPeriodUs) ∧
    (∀ s : State,
      Answers .rdLineRateGbps s s.cfg.lineRateGbps ∧
      Answers .rdCaptureMs s s.cfg.captureMs ∧
      Answers .rdMinIfgBytes s s.cfg.minIfgBytes ∧
      Answers .rdDestMacHi s (0#16 ++ s.cfg.destMacHi) ∧
      Answers .rdDestMacLo s s.cfg.destMacLo ∧
      Answers .rdSrcMacHi s (0#16 ++ s.cfg.srcMacHi) ∧
      Answers .rdSrcMacLo s s.cfg.srcMacLo ∧
      Answers .rdMaxFrameBytes s s.cfg.maxFrameBytes ∧
      Answers .rdFramesPerBurst s s.cfg.framesPerBurst ∧
      Answers .rdBurstPeriodUs s s.cfg.burstPeriodUs) ∧
    (Answers .rdLineRateGbps State.reset 0#32 ∧
      Answers .rdCaptureMs State.reset 0#32 ∧
      Answers .rdMinIfgBytes State.reset 0#32 ∧
      Answers .rdDestMacHi State.reset 0#32 ∧
      Answers .rdDestMacLo State.reset 0#32 ∧
      Answers .rdSrcMacHi State.reset 0#32 ∧
      Answers .rdSrcMacLo State.reset 0#32 ∧
      Answers .rdMaxFrameBytes State.reset 0#32 ∧
      Answers .rdFramesPerBurst State.reset 0#32 ∧
      Answers .rdBurstPeriodUs State.reset 0#32)

/-- O10. Reads of the plan registers, FRAMES_SENT and LAST_FCS (R137, R139, R141, R143, R145, R147, R149, R151). -/
def Obligations.ResultReadsReturnTheHalfOrTheValue : Prop :=
  (∀ x : Word,
      decode (0#1 ++ 0x30#8 ++ x) = .rdTotalBurstsLo ∧
      decode (0#1 ++ 0x34#8 ++ x) = .rdTotalBurstsHi ∧
      decode (0#1 ++ 0x38#8 ++ x) = .rdIfgWords ∧
      decode (0#1 ++ 0x3C#8 ++ x) = .rdEobWordsLo ∧
      decode (0#1 ++ 0x40#8 ++ x) = .rdEobWordsHi ∧
      decode (0#1 ++ 0x44#8 ++ x) = .rdFramesSentLo ∧
      decode (0#1 ++ 0x48#8 ++ x) = .rdFramesSentHi ∧
      decode (0#1 ++ 0x4C#8 ++ x) = .rdLastFcs) ∧
    (∀ s : State,
      Answers .rdTotalBurstsLo s (s.plan.totalBursts.extractLsb' 0 32) ∧
      Answers .rdTotalBurstsHi s (s.plan.totalBursts.extractLsb' 32 32) ∧
      Answers .rdIfgWords s s.plan.ifgWords ∧
      Answers .rdEobWordsLo s (s.plan.eobWords.extractLsb' 0 32) ∧
      Answers .rdEobWordsHi s (s.plan.eobWords.extractLsb' 32 32) ∧
      Answers .rdFramesSentLo s (s.framesSent.extractLsb' 0 32) ∧
      Answers .rdFramesSentHi s (s.framesSent.extractLsb' 32 32) ∧
      Answers .rdLastFcs s s.lastFcs) ∧
    (∀ s s' : State, s.busy = true → step s = .next s' → s'.busy = true → s'.plan = s.plan) ∧
    (Answers .rdTotalBurstsLo State.reset 0#32 ∧
      Answers .rdTotalBurstsHi State.reset 0#32 ∧
      Answers .rdIfgWords State.reset 0#32 ∧
      Answers .rdEobWordsLo State.reset 0#32 ∧
      Answers .rdEobWordsHi State.reset 0#32 ∧
      Answers .rdFramesSentLo State.reset 0#32 ∧
      Answers .rdFramesSentHi State.reset 0#32 ∧
      Answers .rdLastFcs State.reset 0#32)

/-- O11. RD.CRC_INIT, RD.CRC_DATA and RD.RSVD read 0 in every state (R76, R77, R153). -/
def Obligations.WriteOnlyAndReservedReadsReturnZero : Prop :=
  (∀ x : Word, decode (0#1 ++ 0x50#8 ++ x) = .rdCrcInit ∧ decode (0#1 ++ 0x54#8 ++ x) = .rdCrcData ∧
      ∀ a : Offset, a.extractLsb' 0 2 = 0#2 → 0x5C ≤ a.toNat → decode (0#1 ++ a ++ x) = .rdRsvd a) ∧
    (∀ s : State, Answers .rdCrcInit s 0#32 ∧ Answers .rdCrcData s 0#32 ∧ ∀ a, Answers (.rdRsvd a) s 0#32)

/-- O12. A configuration write stores the written bits while idle and is ignored during a run (R118, R120, R122, R124, R126,
R128, R130, R132, R134, R136). -/
def Obligations.ConfigurationWritesStoreOnlyWhileIdle : Prop :=
  (∀ x : Word,
      decode (1#1 ++ 0x08#8 ++ x) = .wrLineRateGbps x ∧
      decode (1#1 ++ 0x0C#8 ++ x) = .wrCaptureMs x ∧
      decode (1#1 ++ 0x10#8 ++ x) = .wrMinIfgBytes x ∧
      decode (1#1 ++ 0x14#8 ++ x) = .wrDestMacHi x ∧
      decode (1#1 ++ 0x18#8 ++ x) = .wrDestMacLo x ∧
      decode (1#1 ++ 0x1C#8 ++ x) = .wrSrcMacHi x ∧
      decode (1#1 ++ 0x20#8 ++ x) = .wrSrcMacLo x ∧
      decode (1#1 ++ 0x24#8 ++ x) = .wrMaxFrameBytes x ∧
      decode (1#1 ++ 0x28#8 ++ x) = .wrFramesPerBurst x ∧
      decode (1#1 ++ 0x2C#8 ++ x) = .wrBurstPeriodUs x) ∧
    (∀ (s : State) (x : Word), s.seq.phase = .idle →
      exec (.wrLineRateGbps x) s = .next { s with cfg := { s.cfg with lineRateGbps := x } } ∧
      exec (.wrCaptureMs x) s = .next { s with cfg := { s.cfg with captureMs := x } } ∧
      exec (.wrMinIfgBytes x) s = .next { s with cfg := { s.cfg with minIfgBytes := x } } ∧
      exec (.wrDestMacHi x) s = .next { s with cfg := { s.cfg with destMacHi := x.extractLsb' 0 16 } } ∧
      exec (.wrDestMacLo x) s = .next { s with cfg := { s.cfg with destMacLo := x } } ∧
      exec (.wrSrcMacHi x) s = .next { s with cfg := { s.cfg with srcMacHi := x.extractLsb' 0 16 } } ∧
      exec (.wrSrcMacLo x) s = .next { s with cfg := { s.cfg with srcMacLo := x } } ∧
      exec (.wrMaxFrameBytes x) s = .next { s with cfg := { s.cfg with maxFrameBytes := x } } ∧
      exec (.wrFramesPerBurst x) s = .next { s with cfg := { s.cfg with framesPerBurst := x } } ∧
      exec (.wrBurstPeriodUs x) s = .next { s with cfg := { s.cfg with burstPeriodUs := x } }) ∧
    (∀ (s : State) (x : Word), s.seq.phase ≠ .idle →
      exec (.wrLineRateGbps x) s = .next s ∧
      exec (.wrCaptureMs x) s = .next s ∧
      exec (.wrMinIfgBytes x) s = .next s ∧
      exec (.wrDestMacHi x) s = .next s ∧
      exec (.wrDestMacLo x) s = .next s ∧
      exec (.wrSrcMacHi x) s = .next s ∧
      exec (.wrSrcMacLo x) s = .next s ∧
      exec (.wrMaxFrameBytes x) s = .next s ∧
      exec (.wrFramesPerBurst x) s = .next s ∧
      exec (.wrBurstPeriodUs x) s = .next s)

/-- O13. A write to a read-only or reserved offset changes no state; only START writes those registers, the sequencer apart
(R116, R138, R140, R142, R144, R146, R148, R150, R152, R78, R154). -/
def Obligations.ReadOnlyAndReservedWritesAreIgnored : Prop :=
  (∀ x : Word,
      decode (1#1 ++ 0x04#8 ++ x) = .wrStatus x ∧
      decode (1#1 ++ 0x30#8 ++ x) = .wrTotalBurstsLo x ∧
      decode (1#1 ++ 0x34#8 ++ x) = .wrTotalBurstsHi x ∧
      decode (1#1 ++ 0x38#8 ++ x) = .wrIfgWords x ∧
      decode (1#1 ++ 0x3C#8 ++ x) = .wrEobWordsLo x ∧
      decode (1#1 ++ 0x40#8 ++ x) = .wrEobWordsHi x ∧
      decode (1#1 ++ 0x44#8 ++ x) = .wrFramesSentLo x ∧
      decode (1#1 ++ 0x48#8 ++ x) = .wrFramesSentHi x ∧
      decode (1#1 ++ 0x4C#8 ++ x) = .wrLastFcs x ∧
      decode (1#1 ++ 0x58#8 ++ x) = .wrCrcResult x ∧
      ∀ a : Offset, a.extractLsb' 0 2 = 0#2 → 0x5C ≤ a.toNat → decode (1#1 ++ a ++ x) = .wrRsvd a x) ∧
    (∀ (s : State) (x : Word),
      exec (.wrStatus x) s = .next s ∧
      exec (.wrTotalBurstsLo x) s = .next s ∧
      exec (.wrTotalBurstsHi x) s = .next s ∧
      exec (.wrIfgWords x) s = .next s ∧
      exec (.wrEobWordsLo x) s = .next s ∧
      exec (.wrEobWordsHi x) s = .next s ∧
      exec (.wrFramesSentLo x) s = .next s ∧
      exec (.wrFramesSentHi x) s = .next s ∧
      exec (.wrLastFcs x) s = .next s ∧
      exec (.wrCrcResult x) s = .next s ∧
      ∀ a, exec (.wrRsvd a x) s = .next s) ∧
    (∀ (i : Instr) (s s' : State), exec i s = .next s' →
      s'.plan ≠ s.plan ∨ s'.framesSent ≠ s.framesSent ∨ s'.lastFcs ≠ s.lastFcs ∨ s'.status ≠ s.status →
      s.seq.phase = .idle ∧ ∃ x : Word, i = .wrCtrl x ∧ x.getLsbD 0 = true) ∧
    (∀ (s : State) (ready : Bool), (s.turn ready).plan = s.plan)

/-- O14. WR.CTRL: while busy only STOP acts; while idle PAD_TO_WORD is stored, then START acts (R114). -/
def Obligations.ControlWritesActInOrder : Prop :=
  (∀ x : Word, decode (1#1 ++ 0x00#8 ++ x) = .wrCtrl x) ∧
    (∀ (s : State) (x : Word), s.seq.phase ≠ .idle →
      exec (.wrCtrl x) s = .next { s with seq := { s.seq with stopReq := s.seq.stopReq || x.getLsbD 1 } }) ∧
    (∀ (s : State) (x : Word), s.seq.phase = .idle → x.getLsbD 0 = false →
      exec (.wrCtrl x) s = .next { s with padToWord := x.getLsbD 2 }) ∧
    (∀ (s : State) (x : Word), s.seq.phase = .idle → x.getLsbD 0 = true →
      exec (.wrCtrl x) s = .next ({ s with padToWord := x.getLsbD 2 } : State).start ∧
      ({ s with padToWord := x.getLsbD 2 } : State).start.seq.stopReq = false ∧
      ({ s with padToWord := x.getLsbD 2 } : State).start.padToWord = x.getLsbD 2)

/-- O15. START: what a CTRL write with WDATA[0] = 1 does while idle, in each of its four cases (R96, R88). -/
def Obligations.StartComputesThePlanAndChecksIt : Prop :=
  ∀ (s : State) (x : Word), s.seq.phase = .idle → x.getLsbD 0 = true →
    let R := s.cfg.lineRateGbps.toNat; let C := s.cfg.captureMs.toNat; let G := s.cfg.minIfgBytes.toNat
    let S := s.cfg.maxFrameBytes.toNat; let F := s.cfg.framesPerBurst.toNat; let P := s.cfg.burstPeriodUs.toNat
    let B := C * 1000 / P; let EOBW := (P * R * 1000 - F * S * 8 + 31) / 32
    let t : State := { s with padToWord := x.getLsbD 2, seq := { s.seq with stopReq := false }, framesSent := 0#64, lastFcs := 0#32 }
    (R = 0 ∨ P = 0 →
      exec (.wrCtrl x) s = .next { t with status := ⟨true, false, .param⟩, plan := ⟨0#64, 0#32, 0#64⟩ }) ∧
    (¬(R = 0 ∨ P = 0) → 2 ^ 64 ≤ EOBW ∨ 2 ^ 64 ≤ B * F →
      exec (.wrCtrl x) s = .next { t with status := ⟨true, false, .range⟩, plan := ⟨0#64, 0#32, 0#64⟩ }) ∧
    (¬(R = 0 ∨ P = 0) → ¬(2 ^ 64 ≤ EOBW ∨ 2 ^ 64 ≤ B * F) → B > 0 ∧ F > 0 ∧ S < 26 →
      ∃ t', exec (.wrCtrl x) s = .next t' ∧
        t' = { t with status := ⟨true, false, .size⟩, plan := t'.plan } ∧
        t'.plan.totalBursts.toNat = B ∧ t'.plan.ifgWords.toNat = (G + 3) / 4 ∧ t'.plan.eobWords.toNat = EOBW) ∧
    (¬(R = 0 ∨ P = 0) → ¬(2 ^ 64 ≤ EOBW ∨ 2 ^ 64 ≤ B * F) → ¬(B > 0 ∧ F > 0 ∧ S < 26) →
      ∃ t', exec (.wrCtrl x) s = .next t' ∧
        t' = { t with
          status := ⟨false, false, .none⟩, plan := t'.plan,
          seq := { phase := .burstTop, burst := 0#64, frame := 0#32, byte := 0#32, fill := 0#64, fcs := s.seq.fcs, stopReq := false } } ∧
        t'.plan.totalBursts.toNat = B ∧ t'.plan.ifgWords.toNat = (G + 3) / 4 ∧ t'.plan.eobWords.toNat = EOBW)

/-- O16. A failed START ends in the error state, emits nothing, keeps the configuration, and fails the same way again (R157,
R95). -/
def Obligations.FailedStartLeavesTheErrorStateAndFailsAgain : Prop :=
  ∀ s : State, s.seq.phase = .idle →
    paramError s.cfg = true ∨ rangeError s.cfg = true ∨ sizeError s.cfg = true →
    s.start.status =
      ⟨true, false, if paramError s.cfg then .param else if rangeError s.cfg then .range else .size⟩ ∧
    s.start.seq.phase = .idle ∧ s.start.stream = s.stream ∧ s.start.framesSent = 0#64 ∧ s.start.lastFcs = 0#32 ∧
    s.start.cfg = s.cfg ∧ s.start.hcrc = s.hcrc ∧
    ErrCode.code .size = 1#4 ∧ ErrCode.code .param = 2#4 ∧ ErrCode.code .range = 3#4 ∧
    s.start.start = s.start

/-- O17. The laws and corner cases of the burst plan (R90). -/
def Obligations.PlanObeysItsLaws : Prop :=
  (∀ c : TrafficProfile, c.burstPeriodUs ≠ 0#32 → c.captureMs.toNat * 1000 < c.burstPeriodUs.toNat → planBursts c = 0) ∧
    (∀ c : TrafficProfile, (c.minIfgBytes = 12#32 → planIfgWords c = 3) ∧ (c.minIfgBytes = 13#32 → planIfgWords c = 4) ∧
      (c.minIfgBytes = 0#32 → planIfgWords c = 0) ∧ (c.minIfgBytes = 1#32 → planIfgWords c = 1)) ∧
    (∀ c : TrafficProfile,
      c.burstPeriodUs.toNat * c.lineRateGbps.toNat * 1000 ≤ c.framesPerBurst.toNat * c.maxFrameBytes.toNat * 8 →
      planEobWords c = 0) ∧
    (∀ c : TrafficProfile, planRemainingBits c % 8 = 0 ∧
      (planRemainingBits c % 32 = 0 ∨ planRemainingBits c % 32 = 8 ∨ planRemainingBits c % 32 = 16 ∨ planRemainingBits c % 32 = 24) ∧
      (planRemainingBits c = 8 → planEobWords c = 1)) ∧
    (∀ c : TrafficProfile, c.framesPerBurst = 0#32 →
      planRemainingBits c = c.burstPeriodUs.toNat * c.lineRateGbps.toNat * 1000 ∧
      planEobWords c = (c.burstPeriodUs.toNat * c.lineRateGbps.toNat * 1000 + 31) / 32) ∧
    (∀ (c : TrafficProfile) (dh sh : BitVec 16) (dl sl : Word),
      let c' := { c with destMacHi := dh, destMacLo := dl, srcMacHi := sh, srcMacLo := sl }
      planBursts c' = planBursts c ∧ planIfgWords c' = planIfgWords c ∧ planEobWords c' = planEobWords c) ∧
    (∀ (s : State) (b : Bool), ({ s with padToWord := b } : State).start.plan = s.start.plan) ∧
    (∀ c : TrafficProfile, c.burstPeriodUs ≠ 0#32 →
      planBursts c < 2 ^ 42 ∧ planIfgWords c ≤ 2 ^ 30 ∧ planEobWords c < 2 ^ 70 ∧
      planBursts c * c.framesPerBurst.toNat < 2 ^ 74)

/-- O18. The CRC of the empty sequence, folding is sequential, and CrcUpdate is affine (R72). -/
def Obligations.CrcArithmeticLaws : Prop :=
  crc32 [] = 0x00000000#32 ∧
    (∀ (c : Word) (a b : List Byte), crcFold c (a ++ b) = crcFold (crcFold c a) b) ∧
    (∀ (c1 c2 : Word) (b : Byte), crcUpdate (c1 ^^^ c2) b = crcUpdate c1 b ^^^ crcUpdate c2 b ^^^ crcUpdate 0#32 b)

/-- O19. CRC_INIT, then any CRC_DATA writes, then CRC_RESULT: the host reads crc32 of the octets written (R73, R74, R75). -/
def Obligations.CrcPortComputesTheCrcOfTheWrittenOctets : Prop :=
  (∀ x : Word, decode (1#1 ++ 0x50#8 ++ x) = .wrCrcInit x ∧ decode (1#1 ++ 0x54#8 ++ x) = .wrCrcData x ∧
      decode (0#1 ++ 0x58#8 ++ x) = .rdCrcResult) ∧
    (∀ (s : State) (x : Word),
      exec (.wrCrcInit x) s = .next { s with hcrc := 0xFFFFFFFF#32 } ∧
      exec (.wrCrcData x) s = .next { s with hcrc := crcUpdate s.hcrc (x.extractLsb' 0 8) } ∧
      Answers .rdCrcResult s (s.hcrc ^^^ 0xFFFFFFFF#32)) ∧
    (∀ (s : State) (x : Word) (xs : List Word), ∃ v : Word,
      execAll (.wrCrcInit x :: xs.map .wrCrcData) s = .next { s with hcrc := v } ∧
      Answers .rdCrcResult { s with hcrc := v } (crc32 (xs.map (fun y => y.extractLsb' 0 8))))

/-- O20. The CRC port does not depend on the run and the sequencer never touches hcrc (R31). -/
def Obligations.CrcPortAndSequencerAreIndependent : Prop :=
  (∀ (s : State) (ready : Bool) (v : Word),
      (s.turn ready).hcrc = s.hcrc ∧ ({ s with hcrc := v } : State).turn ready = { s.turn ready with hcrc := v }) ∧
    (∀ (s : State) (x : Word),
      exec (.wrCrcInit x) s = .next { s with hcrc := 0xFFFFFFFF#32 } ∧
      exec (.wrCrcData x) s = .next { s with hcrc := crcUpdate s.hcrc (x.extractLsb' 0 8) } ∧
      Answers .rdCrcInit s 0#32 ∧ Answers .rdCrcData s 0#32 ∧
      Answers .rdCrcResult s (s.hcrc ^^^ 0xFFFFFFFF#32) ∧ exec (.wrCrcResult x) s = .next s) ∧
    (∀ (i : Instr) (s s' : State), exec i s = .next s' → s'.hcrc ≠ s.hcrc → ∃ x, i = .wrCrcInit x ∨ i = .wrCrcData x) ∧
    State.reset.hcrc = 0xFFFFFFFF#32 ∧ Answers .rdCrcResult State.reset 0#32

/-- O21. The frame: its length and every field (R79, R84). -/
def Obligations.FrameHasItsFieldsInOrder : Prop :=
  ∀ (p : Params) (c : TrafficProfile), 26 ≤ c.maxFrameBytes.toNat →
    (frameOctets p c).length = c.maxFrameBytes.toNat ∧
    (∀ i, i < 8 → (frameOctets p c)[i]? = some ((0xFB555555#32 ++ p.preambleLow : BitVec 64).extractLsb' (56 - 8 * i) 8)) ∧
    (∀ j, j < 6 → (frameOctets p c)[8 + j]? = some ((c.destMacHi ++ c.destMacLo).extractLsb' (40 - 8 * j) 8)) ∧
    (∀ j, j < 6 → (frameOctets p c)[14 + j]? = some ((c.srcMacHi ++ c.srcMacLo).extractLsb' (40 - 8 * j) 8)) ∧
    (frameOctets p c)[20]? = some (p.etherType.extractLsb' 8 8) ∧ (frameOctets p c)[21]? = some (p.etherType.extractLsb' 0 8) ∧
    (∀ i, 22 ≤ i → i + 4 < c.maxFrameBytes.toNat → (frameOctets p c)[i]? = some 0#8) ∧
    (∀ j, j < 4 → (frameOctets p c)[c.maxFrameBytes.toNat - 4 + j]? =
      some ((crc32 ((frameOctets p c).take (c.maxFrameBytes.toNat - 4))).extractLsb' (24 - 8 * j) 8)) ∧
    (∀ c' : TrafficProfile, c'.maxFrameBytes = c.maxFrameBytes → c'.destMacHi = c.destMacHi → c'.destMacLo = c.destMacLo →
      c'.srcMacHi = c.srcMacHi → c'.srcMacLo = c.srcMacLo → frameOctets p c' = frameOctets p c)

/-- O22. FrameBeats: ceil(S/4) beats under either policy, which carry the frame octet for octet (R97, R98). -/
def Obligations.ChunkingCarriesTheFrameInBeats : Prop :=
  ∀ (p : Params) (c : TrafficProfile), 26 ≤ c.maxFrameBytes.toNat →
    (∀ pad, (frameBeats p c pad).length = (c.maxFrameBytes.toNat + 3) / 4) ∧
    (∀ pad k, 4 * k < c.maxFrameBytes.toNat → ∃ b, (frameBeats p c pad)[k]? = some b ∧
      (∀ j, j < 4 → b.data.extractLsb' (24 - 8 * j) 8 = ((frameOctets p c)[4 * k + j]?).getD 0#8) ∧
      b.nb.toNat = if min 4 (c.maxFrameBytes.toNat - 4 * k) < 4 ∧ pad = true then 4 else min 4 (c.maxFrameBytes.toNat - 4 * k)) ∧
    ((frameBeats p c false).flatMap
      (fun b => (List.range b.nb.toNat).map (fun j => b.data.extractLsb' (24 - 8 * j) 8))) = frameOctets p c

/-- O23. The trace: its shape and its number of beats (R100). -/
def Obligations.TraceIsBurstsOfFramesAndFiller : Prop :=
  ∀ (p : Params) (c : TrafficProfile) (pad : Bool) (r : PlanRegs),
    (trace p c pad r).length =
      r.totalBursts.toNat * (c.framesPerBurst.toNat * ((c.maxFrameBytes.toNat + 3) / 4 + r.ifgWords.toNat) + r.eobWords.toNat) ∧
    trace p c pad r = (List.range r.totalBursts.toNat).flatMap (fun _ =>
      (List.range c.framesPerBurst.toNat).flatMap (fun _ =>
        frameBeats p c pad ++ List.replicate r.ifgWords.toNat ⟨4#3, 0x07070707#32⟩) ++
      List.replicate r.eobWords.toNat ⟨4#3, 0x07070707#32⟩) ∧
    (r.totalBursts = 0#64 → trace p c pad r = []) ∧
    (c.framesPerBurst = 0#32 → trace p c pad r = List.replicate (r.totalBursts.toNat * r.eobWords.toNat) ⟨4#3, 0x07070707#32⟩)

/-- O24. The step in phase BURST_TOP (R102). -/
def Obligations.BurstTopStep : Prop :=
  ∀ (s : State) (ready : Bool), s.seq.phase = .burstTop →
    (s.seq.burst = s.plan.totalBursts →
      ∃ q : Sequencer, q.phase = .idle ∧ q.stopReq = false ∧
        s.turn ready = { s with seq := q, status := { s.status with done := true, cancelled := false } }) ∧
    (s.seq.burst ≠ s.plan.totalBursts → s.seq.stopReq = true →
      ∃ q : Sequencer, q.phase = .idle ∧ q.stopReq = false ∧
        s.turn ready = { s with seq := q, status := { s.status with done := true, cancelled := true } }) ∧
    (s.seq.burst ≠ s.plan.totalBursts → s.seq.stopReq = false →
      s.turn ready = { s with seq := { s.seq with frame := 0#32, phase := .frameTop } })

/-- O25. The step in phase FRAME_TOP (R103). -/
def Obligations.FrameTopStep : Prop :=
  ∀ (s : State) (ready : Bool), s.seq.phase = .frameTop →
    (s.seq.frame = s.cfg.framesPerBurst →
      s.turn ready = { s with seq := { s.seq with fill := s.plan.eobWords, phase := .eob } }) ∧
    (s.seq.frame ≠ s.cfg.framesPerBurst → s.seq.stopReq = true →
      ∃ q : Sequencer, q.phase = .idle ∧ q.stopReq = false ∧
        s.turn ready = { s with seq := q, status := { s.status with done := true, cancelled := true } }) ∧
    (s.seq.frame ≠ s.cfg.framesPerBurst → s.seq.stopReq = false →
      s.turn ready = { s with seq := { s.seq with byte := 0#32, fcs := 0xFFFFFFFF#32, phase := .frame } })

/-- O26. The steps in phases IFG and EOB (R105, R106, R99). -/
def Obligations.FillerSteps : Prop :=
  ∀ s : State,
    (s.seq.phase = .ifg → s.seq.fill = 0#64 → ∀ ready,
      s.turn ready = { s with seq := { s.seq with frame := s.seq.frame + 1#32, phase := .frameTop } }) ∧
    (s.seq.phase = .eob → s.seq.fill = 0#64 → ∀ ready,
      s.turn ready = { s with seq := { s.seq with burst := s.seq.burst + 1#64, phase := .burstTop } }) ∧
    (s.seq.phase = .ifg ∨ s.seq.phase = .eob → s.seq.fill ≠ 0#64 →
      s.turn true = { s with stream := s.stream ++ [⟨4#3, 0x07070707#32⟩], seq := { s.seq with fill := s.seq.fill - 1#64 } }) ∧
    filler s.seq.fill.toNat = List.replicate s.seq.fill.toNat ⟨4#3, 0x07070707#32⟩

/-- O27. The step in phase FRAME emits beat seq.byte/4 of FrameBeats, and the FCS it sends is the frame's (R104). -/
def Obligations.FrameStepEmitsTheNextBeatOfTheFrame : Prop :=
  ∀ s : State, s.Inv → s.seq.phase = .frame →
    ∃ b, (frameBeats s.params s.cfg s.padToWord)[s.seq.byte.toNat / 4]? = some b ∧
    (s.seq.byte.toNat + 4 < s.cfg.maxFrameBytes.toNat →
      s.turn true = { s with stream := s.stream ++ [b], seq := { s.seq with
        byte := s.seq.byte + 4#32,
        fcs := crcFold 0xFFFFFFFF#32 (bodyPrefix s.params s.cfg (min (s.seq.byte.toNat + 4) (s.cfg.maxFrameBytes.toNat - 4))) } }) ∧
    (s.cfg.maxFrameBytes.toNat ≤ s.seq.byte.toNat + 4 →
      s.turn true = { s with
        stream := s.stream ++ [b], framesSent := s.framesSent + 1#64, lastFcs := frameFcs s.params s.cfg,
        seq := { s.seq with byte := s.cfg.maxFrameBytes, fill := s.plan.ifgWords.setWidth 64, phase := .ifg,
                            fcs := crcFold 0xFFFFFFFF#32 (frameBody s.params s.cfg) } })

/-- O28. An emitting step holds while the sink is not ready; a boundary step does not wait; an idle sequencer has no step
(20_memory.md §4, 43_serializer.md §2, 70_reset_and_hazards.md §3). -/
def Obligations.EmittingStepsHoldUntilTheSinkIsReady : Prop :=
  (∀ s : State, s.seq.phase = .frame ∨ ((s.seq.phase = .ifg ∨ s.seq.phase = .eob) ∧ s.seq.fill ≠ 0#64) → s.turn false = s) ∧
    (∀ s : State, ¬(s.seq.phase = .frame ∨ ((s.seq.phase = .ifg ∨ s.seq.phase = .eob) ∧ s.seq.fill ≠ 0#64)) →
      s.turn false = s.turn true ∧ (s.turn true).stream = s.stream) ∧
    (∀ (s : State) (ready : Bool), s.seq.phase = .idle → s.turn ready = s) ∧
    (∀ (s : State) (n : Nat), s.seq.phase = .frame ∨ ((s.seq.phase = .ifg ∨ s.seq.phase = .eob) ∧ s.seq.fill ≠ 0#64) →
      Host.Core.run Sys2Proof.core n (s.under (List.replicate n (.sequencerTurn false))) = .next (s.under []))

/-- O29. The output stream is append-only: a step adds at most one beat, and only a sequencer turn with a ready sink adds one
(R50). -/
def Obligations.StreamOnlyGrowsByOneBeatATurn : Prop :=
  ∀ s s' : State, step s = .next s' →
    (∃ bs, s'.stream = s.stream ++ bs ∧ bs.length ≤ 1 ∧
      (bs ≠ [] → ∃ es, s.schedule = .sequencerTurn true :: es) ∧
      (s.Inv → ∀ b ∈ bs, 1 ≤ b.nb.toNat ∧ b.nb.toNat ≤ 4)) ∧
    (∀ es, s.schedule = .sequencerTurn false :: es →
      s.seq.phase = .frame ∨ ((s.seq.phase = .ifg ∨ s.seq.phase = .eob) ∧ s.seq.fill ≠ 0#64) → s' = { s with schedule := es })

/-- O30. Every beat a turn emits has NB in 1..4 and zero lanes past NB, and is short only as an unpadded frame's last (R64). -/
def Obligations.EmittedBeatsAreWellFormed : Prop :=
  ∀ (s : State) (ready : Bool), s.Inv →
    (s.turn ready).stream = s.stream ∨ ∃ b, (s.turn ready).stream = s.stream ++ [b] ∧
      1 ≤ b.nb.toNat ∧ b.nb.toNat ≤ 4 ∧ (∀ j, b.nb.toNat ≤ j → j < 4 → b.data.extractLsb' (24 - 8 * j) 8 = 0#8) ∧
      (b.nb.toNat < 4 → s.seq.phase = .frame ∧ s.padToWord = false ∧ s.cfg.maxFrameBytes.toNat % 4 ≠ 0 ∧
        (s.turn ready).seq.phase = .ifg) ∧
      (s.seq.phase ≠ .frame → b = ⟨4#3, 0x07070707#32⟩) ∧ b.toWord = b.nb ++ b.data

/-- O31. A sequencer turn depends on the block alone: not on the host, the events to come or the stream so far (43_serializer.md
§2, 10_state.md §4, 20_memory.md §5). -/
def Obligations.SequencerDoesNotDependOnTheEnvironment : Prop :=
  ∀ (s : State) (ready : Bool),
    (∀ h, ({ s with agent := h } : State).turn ready = { s.turn ready with agent := h }) ∧
    (∀ es, ({ s with schedule := es } : State).turn ready = { s.turn ready with schedule := es }) ∧
    (∀ bs, ∃ new, (s.turn ready).stream = s.stream ++ new ∧
      ({ s with stream := bs } : State).turn ready = { s.turn ready with stream := bs ++ new }) ∧
    (s.turn ready).cfg = s.cfg ∧ (s.turn ready).padToWord = s.padToWord ∧ (s.turn ready).params = s.params

/-- O32. The invariant holds at reset (10_state.md §4, 10_state.md §7). -/
def Obligations.InvariantHoldsAtReset : Prop :=
  State.reset.Inv

/-- O33. Every step keeps the invariant of the machine (10_state.md §4, 10_state.md §3, 42_burst_plan.md §3, 43_serializer.md
§2, log 9). -/
def Obligations.EveryStepKeepsTheInvariant : Prop :=
  ∀ s s' : State, s.Inv → step s = .next s' → s'.Inv

/-- O34. A run with no STOP emits exactly Trace and ends after the stated number of steps (R110). -/
def Obligations.RunEmitsTheTraceAndEnds : Prop :=
  ∀ s : State, s.Inv → s.seq.phase = .idle →
    paramError s.cfg = false → rangeError s.cfg = false → sizeError s.cfg = false →
    let r := s.start
    let N := r.runTrace.length + r.totalBursts * (2 * r.framesPerBurst + 3) + 1
    (∀ es : List Event,
      (∀ e ∈ es, (∃ ready, e = .sequencerTurn ready) ∨
        ∃ w, e = .transaction w ∧ w.extractLsb' 32 2 = 0#2 ∧
          ¬(w.getLsbD 40 = true ∧ w.extractLsb' 32 8 = 0#8 ∧ w.extractLsb' 0 2 ≠ 0#2)) →
      N ≤ es.count (.sequencerTurn true) →
      ∃ t, Host.Core.run Sys2Proof.core es.length (r.under es) = .next t ∧
        t.stream = s.stream ++ trace s.params s.cfg s.padToWord (planRegs s.cfg) ∧
        t.seq.phase = .idle ∧ t.status = ⟨true, false, .none⟩ ∧
        t.framesSent.toNat = planBursts s.cfg * s.cfg.framesPerBurst.toNat) ∧
    (∀ n, n < N → ∃ t, Host.Core.run Sys2Proof.core n (r.under (List.replicate n (.sequencerTurn true))) = .next t ∧
      t.seq.phase ≠ .idle)

/-- O35. Under every interleaving of host and sequencer a run has emitted exactly the beats up to its position, and a cancelled
run ends at a frame boundary (R109). -/
def Obligations.EveryInterleavingEmitsAPrefixOfTheTrace : Prop :=
  (∀ (s s' : State) (base : List Beat), s.Inv → s.busy = true → s.stream = base ++ s.progress → step s = .next s' →
      s.progress <+: s.runTrace ∧
      (s'.busy = true → s'.stream = base ++ s'.progress ∧ s'.runTrace = s.runTrace) ∧
      (s'.busy = false → (∀ es, s.schedule ≠ .reset :: es) →
        (s'.status.cancelled = false ∧ s'.stream = base ++ s.runTrace ∧
          s'.framesSent.toNat = s.totalBursts * s.framesPerBurst) ∨
        (s'.status.cancelled = true ∧ s.seq.stopReq = true ∧ ∃ b f, b < s.totalBursts ∧ (f < s.framesPerBurst ∨ f = 0) ∧
          s'.stream = base ++ s.before b f ∧ s.before b f <+: s.runTrace ∧
          s'.framesSent.toNat = b * s.framesPerBurst + f))) ∧
    (∀ (s : State) (b f : Nat),
      s.Inv → s.seq.phase = .idle → paramError s.cfg = false → rangeError s.cfg = false → sizeError s.cfg = false →
      b < planBursts s.cfg → (f < s.cfg.framesPerBurst.toNat ∨ f = 0) →
      ∃ (n : Nat) (t : State), Host.Core.run Sys2Proof.core (n + 2)
          (s.start.under (List.replicate n (.sequencerTurn true) ++ [.transaction (busWrite 0x00#8 2#32), .sequencerTurn true])) =
            .next t ∧
        t.seq.phase = .idle ∧ t.status = ⟨true, true, .none⟩ ∧ t.stream = s.stream ++ s.start.before b f ∧
        t.framesSent.toNat = b * s.cfg.framesPerBurst.toNat + f)

/-- O36. No event changes the configuration, PAD_TO_WORD or the plan registers while a run goes on (10_state.md §3,
70_reset_and_hazards.md §3). -/
def Obligations.ConfigurationIsLockedDuringARun : Prop :=
  ∀ s s' : State, s.busy = true → step s = .next s' → s'.busy = true →
    s'.cfg = s.cfg ∧ s'.padToWord = s.padToWord ∧ s'.plan = s.plan ∧ s'.params = s.params

/-- O37. No read has a side effect; configuration writes are idempotent, CRC_DATA writes are not (R49). -/
def Obligations.ReadsAreIdempotentAndWritesAct : Prop :=
  (∀ (t : Transaction) (s : State), t.getLsbD 40 = false → t.extractLsb' 32 2 = 0#2 →
      ∃ v, Answers (decode t) s v ∧ ∀ s1, exec (decode t) s = .next s1 → Answers (decode t) s1 v) ∧
    (∀ (i : Instr) (s s1 : State), exec i s = .next s1 →
      (∀ x, i ≠ .wrCtrl x ∧ i ≠ .wrCrcData x) → s1.agent = s.agent → exec i s1 = .next s1) ∧
    (∃ (x : Word) (s s1 s2 : State), exec (.wrCrcData x) s = .next s1 ∧ exec (.wrCrcData x) s1 = .next s2 ∧ s2.hcrc ≠ s1.hcrc) ∧
    (∃ (x : Word) (s s1 s2 : State), exec (.wrCtrl x) s = .next s1 ∧ exec (.wrCtrl x) s1 = .next s2 ∧ s2 ≠ s1)

/-- O38. No error arises once a run has begun, and a run ends only normally, by cancellation or by reset (R159). -/
def Obligations.OnlyStartRaisesAndARunEndsInThreeWays : Prop :=
  ∀ s s' : State, s.Inv → s.busy = true → step s = .next s' →
    s'.status.err = .none ∧
    (s'.busy = false →
      (∃ es, s.schedule = .reset :: es) ∨
      (∃ ready es, s.schedule = .sequencerTurn ready :: es ∧ s.seq.phase = .burstTop ∧ s.seq.burst = s.plan.totalBursts ∧
        s'.status = ⟨true, false, .none⟩) ∨
      (∃ ready es, s.schedule = .sequencerTurn ready :: es ∧ (s.seq.phase = .burstTop ∨ s.seq.phase = .frameTop) ∧
        s.seq.stopReq = true ∧ s'.status = ⟨true, true, .none⟩))

/-- O39. A STOP write during a run sets the request, nothing withdraws it while the run goes on, and only BURST_TOP and
FRAME_TOP look at it (R108). -/
def Obligations.StopRequestIsKeptAndSampledAtBoundaries : Prop :=
  (∀ (s : State) (x : Word), s.busy = true → x.getLsbD 1 = true →
      exec (.wrCtrl x) s = .next { s with seq := { s.seq with stopReq := true } }) ∧
    (∀ s s' : State, s.busy = true → s.seq.stopReq = true → step s = .next s' → s'.busy = true → s'.seq.stopReq = true) ∧
    (∀ (s : State) (ready b : Bool), s.seq.phase = .frame ∨ s.seq.phase = .ifg ∨ s.seq.phase = .eob →
      ({ s with seq := { s.seq with stopReq := b } } : State).turn ready =
        { s.turn ready with seq := { (s.turn ready).seq with stopReq := b } }) ∧
    (∀ (s : State) (ready : Bool), (s.seq.phase = .burstTop ∧ s.seq.burst ≠ s.plan.totalBursts) ∨
        (s.seq.phase = .frameTop ∧ s.seq.frame ≠ s.cfg.framesPerBurst) →
      (s.seq.stopReq = true → (s.turn ready).seq.phase = .idle ∧ (s.turn ready).status.cancelled = true) ∧
      (s.seq.stopReq = false → (s.turn ready).seq.phase ≠ .idle)) ∧
    (∀ s : State, s.start.seq.stopReq = false) ∧
    (∀ (s : State) (ready : Bool), s.busy = true → (s.turn ready).busy = false → (s.turn ready).seq.stopReq = false)

/-- O40. FRAMES_SENT counts the frames of the run and never wraps (R29). -/
def Obligations.FramesSentCountsFramesAndNeverWraps : Prop :=
  (∀ s : State, s.start.framesSent = 0#64) ∧
    (∀ s : State, s.Inv → s.busy = true →
      s.framesSent.toNat ≤ s.totalBursts * s.framesPerBurst ∧ s.totalBursts * s.framesPerBurst < 2 ^ 64) ∧
    (∀ s s' : State, s.Inv → s.busy = true → step s = .next s' → (∀ es, s.schedule ≠ .reset :: es) →
      s'.framesSent.toNat = s.framesSent.toNat + (if s.seq.phase = .frame ∧ s'.seq.phase = .ifg then 1 else 0)) ∧
    (∀ (s : State) (ready : Bool), s.busy = false → (s.turn ready).framesSent = s.framesSent) ∧
    State.reset.framesSent = 0#64

/-- O41. While idle only the host moves the block: results stay until START or reset (20_memory.md §5, 43_serializer.md §4,
60_exceptions.md §4). -/
def Obligations.AnEndedRunStaysAsItEnded : Prop :=
  ∀ s s' : State, s.busy = false → step s = .next s' →
    s'.stream = s.stream ∧
    (s'.status = s.status ∧ s'.framesSent = s.framesSent ∧ s'.lastFcs = s.lastFcs ∧ s'.plan = s.plan ∨
      (∃ es, s.schedule = .reset :: es) ∨
      (∃ es x, x.getLsbD 0 = true ∧ (s.schedule = .transaction (busWrite 0x00#8 x) :: es ∨
        s.schedule = .hostTurn :: es ∧
          (s.agent.program[s.agent.pc]? = some (.transaction (busWrite 0x00#8 x)) ∨
            ∃ m v k, s.agent.program[s.agent.pc]? = some (.branch (busWrite 0x00#8 x) m v k)))))

/-- O42. The reset event sets every piece of the block's state to its reset value and keeps the emitted beats (R171, R38). -/
def Obligations.ResetEventClearsTheBlock : Prop :=
  ∀ (s : State) (es : List Event), s.schedule = .reset :: es → ∃ t, step s = .next t ∧
    t.cfg = ⟨0#32, 0#32, 0#32, 0#16, 0#32, 0#16, 0#32, 0#32, 0#32, 0#32⟩ ∧ t.padToWord = false ∧
    t.status = ⟨false, false, .none⟩ ∧ t.plan = ⟨0#64, 0#32, 0#64⟩ ∧ t.framesSent = 0#64 ∧ t.lastFcs = 0#32 ∧
    t.hcrc = 0xFFFFFFFF#32 ∧ t.seq = ⟨.idle, 0#64, 0#32, 0#32, 0#64, 0xFFFFFFFF#32, false⟩ ∧
    t.stream = s.stream ∧ t.schedule = es ∧ t.busy = false ∧
    exec (.wrCtrl 1#32) t = .next { t with status := ⟨true, false, .param⟩ }

/-- O43. A 64-bit counter read as two halves during a run can mix two values (70_reset_and_hazards.md §3, 20_memory.md §3). -/
def Obligations.ReadingFramesSentInTwoHalvesCanTear : Prop :=
  ∃ s : State, s.Inv ∧ s.busy = true ∧ (s.turn true).busy = true ∧
    ∃ lo hi : Word, Answers .rdFramesSentLo s lo ∧ Answers .rdFramesSentHi (s.turn true) hi ∧
      hi ++ lo ≠ s.framesSent ∧ hi ++ lo ≠ (s.turn true).framesSent

/-- O44. The host's turn runs the line at its place: a transaction, or a branch that reads and jumps (30_encoding.md §3, log 5). -/
def Obligations.HostScriptLinesRunInOrder : Prop :=
  ∀ s : State,
    (∀ t, s.agent.program[s.agent.pc]? = some (.transaction t) →
      runAgent s = exec (decode t) { s with agent := { s.agent with pc := s.agent.pc + 1 } }) ∧
    (∀ t m v k x, s.agent.program[s.agent.pc]? = some (.branch t m v k) → Answers (decode t) s x →
      runAgent s = .next { s with agent := { s.agent with
        reads := s.agent.reads ++ [x], pc := if x &&& m ≠ v then k else s.agent.pc + 1 } }) ∧
    (s.agent.program[s.agent.pc]? = none → runAgent s = .next s)

/-- O45. SETMAC writes the 48-bit address of its 12 digits, and refuses any other text by name (30_encoding.md §3, 10_state.md
§3, 60_exceptions.md §1). -/
def Obligations.SetMacLoadsTheAddressAndRefusesMalformedHex : Prop :=
  (∀ k, k < 16 → ∀ c, ("0123456789ABCDEF".toList[k]? = some c ∨ "0123456789abcdef".toList[k]? = some c) → hexDigit c = some k) ∧
    (∀ c, c ∉ "0123456789ABCDEFabcdef".toList → hexDigit c = none) ∧
    (∀ (s : State) (n : Nat) (hex : Text) (m : BitVec 48), s.seq.phase = .idle → hex.length = 12 →
      (∀ j, j < 12 → ∃ c, hex[j]? = some c ∧ hexDigit c = some (m.extractLsb' (44 - 4 * j) 4).toNat) →
      (∃ hi lo, expandOp n (.setMac .dest hex) = .ok [.transaction (busWrite 0x14#8 hi), .transaction (busWrite 0x18#8 lo)] ∧
        ∃ t, execAll [decode (busWrite 0x14#8 hi), decode (busWrite 0x18#8 lo)] s = .next t ∧
          t = { s with cfg := { s.cfg with destMacHi := t.cfg.destMacHi, destMacLo := t.cfg.destMacLo } } ∧
          t.cfg.destMacHi ++ t.cfg.destMacLo = m) ∧
      (∃ hi lo, expandOp n (.setMac .src hex) = .ok [.transaction (busWrite 0x1C#8 hi), .transaction (busWrite 0x20#8 lo)] ∧
        ∃ t, execAll [decode (busWrite 0x1C#8 hi), decode (busWrite 0x20#8 lo)] s = .next t ∧
          t = { s with cfg := { s.cfg with srcMacHi := t.cfg.srcMacHi, srcMacLo := t.cfg.srcMacLo } } ∧
          t.cfg.srcMacHi ++ t.cfg.srcMacLo = m)) ∧
    (∀ hex : Text, hex.length = 12 → (∀ c ∈ hex, hexDigit c ≠ none) → ∃ m : BitVec 48,
      ∀ j, j < 12 → ∃ c, hex[j]? = some c ∧ hexDigit c = some (m.extractLsb' (44 - 4 * j) 4).toNat) ∧
    (∀ (hex : Text) (n : Nat) (which : MacName), hex.length ≠ 12 ∨ (∃ c ∈ hex, hexDigit c = none) →
      expandOp n (.setMac which hex) = .error .malformedHex)

/-- O46. The configuration loader writes all ten registers from the record, or is refused by name and writes none
(44_register_ops.md §5, 60_exceptions.md §1, log 5, log 14, log 16). -/
def Obligations.LoaderWritesEveryRegisterOrNone : Prop :=
  loaderWrites none = .error .configurationError ∧
    (∀ (kvs : List (Text × Text)) (k v : Text), (∀ key ∈ integerKeys ++ macKeys, k ≠ key.toList) →
      loaderWrites (some ((k, v) :: kvs)) = loaderWrites (some kvs)) ∧
    (∀ (kvs : List (Text × Text)) (p : List AgentLine), loaderWrites (some kvs) = .ok p →
      ∃ (r c g sz f u : Word) (dm sm : BitVec 48),
        GivesInt kvs "lineRateGbps" r ∧ GivesInt kvs "captureDurationMs" c ∧ GivesInt kvs "minIfgBytesPerFrame" g ∧
        GivesMac kvs "destMac" dm ∧ GivesMac kvs "srcMac" sm ∧ GivesInt kvs "maxFrameSizeBytes" sz ∧
        GivesInt kvs "framesPerBurst" f ∧ GivesInt kvs "burstPeriodUs" u ∧
        p = ([(0x08#8, r), (0x0C#8, c), (0x10#8, g), (0x14#8, 0#16 ++ dm.extractLsb' 32 16), (0x18#8, dm.extractLsb' 0 32),
          (0x1C#8, 0#16 ++ sm.extractLsb' 32 16), (0x20#8, sm.extractLsb' 0 32), (0x24#8, sz), (0x28#8, f), (0x2C#8, u)].map
            (fun av => .transaction (busWrite av.1 av.2)))) ∧
    (∀ kvs : List (Text × Text), (kvs.map Prod.fst).Nodup →
      let intsGood := ∀ key ∈ integerKeys, ∃ v, GivesInt kvs key v
      let macsGood := ∀ key ∈ macKeys, ∃ m, GivesMac kvs key m
      (intsGood → macsGood → ∃ p, loaderWrites (some kvs) = .ok p) ∧
      (¬intsGood → macsGood → loaderWrites (some kvs) = .error .configurationError) ∧
      (intsGood → ¬macsGood → loaderWrites (some kvs) = .error .malformedHex) ∧
      (¬intsGood → ¬macsGood →
        loaderWrites (some kvs) = .error .configurationError ∨ loaderWrites (some kvs) = .error .malformedHex)) ∧
    (∀ (s : State) (r : Option (List (Text × Text))) (es : List Event), s.schedule = .record r :: es →
      (∀ e, loaderWrites r = .error e → step s = .refused e) ∧
      (∀ p, loaderWrites r = .ok p →
        step s = .next { s with schedule := es, agent := { s.agent with program := p, pc := 0 } }))

/-- O47. The text of a beat: 2*NB digits, two for each octet in lane order, then the line end (R65). -/
def Obligations.RenderedBeatHasTwoDigitsAnOctet : Prop :=
  (∀ (st : TextStyle) (b : Beat), b.nb.toNat ≤ 4 →
      renderBeat st b = (List.range b.nb.toNat).flatMap (fun j => renderOctet st (b.data.extractLsb' (24 - 8 * j) 8)) ++ st.lineEnd ∧
      (renderBeat st b).length = 2 * b.nb.toNat + st.lineEnd.length) ∧
    (∀ (st : TextStyle) (o : Byte), st.digits.length = 16 → ∃ a b, renderOctet st o = [a, b] ∧
      st.digits[o.toNat / 16]? = some a ∧ st.digits[o.toNat % 16]? = some b) ∧
    renderBeat TextStyle.spec ⟨2#3, 0x50520000#32⟩ = ['5', '0', '5', '2', Char.ofNat 0x0A] ∧
    TextStyle.spec.digits = ['0', '1', '2', '3', '4', '5', '6', '7', '8', '9', 'A', 'B', 'C', 'D', 'E', 'F'] ∧
    TextStyle.spec.lineEnd = [Char.ofNat 0x0A]

/-- O48. CrcUpdate XORs the octet into the low byte and shifts eight times; crc32 folds it from all ones (R68, R69). -/
def Obligations.CrcUpdateShiftsEightTimesWithThePolynomial : Prop :=
  (∀ (c : Word) (b : Byte),
      let shift : Word → Word := fun x =>
        if x.extractLsb' 0 1 = 1#1 then (0#1 ++ x.extractLsb' 1 31) ^^^ 0xEDB88320#32 else 0#1 ++ x.extractLsb' 1 31
      crcUpdate c b = shift (shift (shift (shift (shift (shift (shift (shift (c ^^^ (0#24 ++ b)))))))))) ∧
    (∀ bs : List Byte, crc32 bs = bs.foldl crcUpdate 0xFFFFFFFF#32 ^^^ 0xFFFFFFFF#32) ∧
    crcUpdate 0xFFFFFFFF#32 0x31#8 = 0x7C231048#32 ∧ crc32 [] = 0x00000000#32 ∧
    crc32 [0x31#8, 0x32#8, 0x33#8, 0x34#8, 0x35#8, 0x36#8, 0x37#8, 0x38#8, 0x39#8] = 0xCBF43926#32

/-- O49. The expansion of every operation of a host script, and what the assembler refuses by name (30_encoding.md §3,
60_exceptions.md §1, 40_crc32.md §1, log 5, log 15, log 23). -/
def Obligations.AssemblerExpandsEveryOperation : Prop :=
  (∀ (n : Nat) (r : RegName) (a : Offset) (x : Word) (v : Int),
      expandOp n (.rd (.register r)) = .ok [.transaction (busRead r.offset)] ∧
      expandOp n (.wr (.register r) x.toNat) = .ok [.transaction (busWrite r.offset x)] ∧
      (a.extractLsb' 0 2 = 0#2 → expandOp n (.rd (.offset a)) = .ok [.transaction (busRead a)] ∧
        expandOp n (.wr (.offset a) x.toNat) = .ok [.transaction (busWrite a x)]) ∧
      (a.extractLsb' 0 2 ≠ 0#2 → expandOp n (.rd (.offset a)) = .error (.misaligned a) ∧
        expandOp n (.wr (.offset a) x.toNat) = .error (.misaligned a)) ∧
      (v < 0 ∨ 2 ^ 32 ≤ v → expandOp n (.wr (.register r) v) = .error (.immediateOutOfRange v))) ∧
    (∀ (n k : Nat) (r : RegName) (m x : Word) (v : Int),
      expandOp n (.bne r m.toNat x.toNat k) = .ok [.branch (busRead r.offset) m x k] ∧
      (v < 0 ∨ 2 ^ 32 ≤ v → expandOp n (.bne r v x.toNat k) = .error (.immediateOutOfRange v) ∧
        expandOp n (.bne r m.toNat v k) = .error (.immediateOutOfRange v))) ∧
    (∀ n : Nat,
      expandOp n (.start false) = .ok [.transaction (busWrite 0x00#8 0x1#32)] ∧
      expandOp n (.start true) = .ok [.transaction (busWrite 0x00#8 0x5#32)] ∧
      expandOp n .stop = .ok [.transaction (busWrite 0x00#8 0x2#32)] ∧
      expandOp n .waitDone = .ok [.branch (busRead 0x04#8) 0x3#32 0x2#32 n] ∧
      expandOp n .crcReset = .ok [.transaction (busWrite 0x50#8 0#32)] ∧
      expandOp n (.rd64 .destMac) = .ok [.transaction (busRead 0x18#8), .transaction (busRead 0x14#8)] ∧
      expandOp n (.rd64 .srcMac) = .ok [.transaction (busRead 0x20#8), .transaction (busRead 0x1C#8)] ∧
      expandOp n (.rd64 .totalBursts) = .ok [.transaction (busRead 0x30#8), .transaction (busRead 0x34#8)] ∧
      expandOp n (.rd64 .eobWords) = .ok [.transaction (busRead 0x3C#8), .transaction (busRead 0x40#8)] ∧
      expandOp n (.rd64 .framesSent) = .ok [.transaction (busRead 0x44#8), .transaction (busRead 0x48#8)]) ∧
    (∀ (n : Nat) (hex : Text) (m : BitVec 48), SpellsMac hex m →
      expandOp n (.setMac .dest hex) = .ok [.transaction (busWrite 0x14#8 (0#16 ++ m.extractLsb' 32 16)),
        .transaction (busWrite 0x18#8 (m.extractLsb' 0 32))] ∧
      expandOp n (.setMac .src hex) = .ok [.transaction (busWrite 0x1C#8 (0#16 ++ m.extractLsb' 32 16)),
        .transaction (busWrite 0x20#8 (m.extractLsb' 0 32))]) ∧
    (∀ (n : Nat) (which : MacName) (hex : Text), (∀ m, ¬SpellsMac hex m) →
      expandOp n (.setMac which hex) = .error .malformedHex) ∧
    (∀ (n : Nat) (codes : List Byte),
      expandOp n (.crcStr codes) = .ok (codes.map (fun o => .transaction (busWrite 0x54#8 (0#24 ++ o))))) ∧
    (∀ (n : Nat) (hex : Text) (os : List Byte), hex.length = 2 * os.length →
      (∀ j o, os[j]? = some o → ∃ a b, hex[2 * j]? = some a ∧ hex[2 * j + 1]? = some b ∧
        hexDigit a = some (o.extractLsb' 4 4).toNat ∧ hexDigit b = some (o.extractLsb' 0 4).toNat) →
      expandOp n (.crcHex hex) = .ok (os.map (fun o => .transaction (busWrite 0x54#8 (0#24 ++ o))))) ∧
    (∀ (n : Nat) (hex : Text), hex.length % 2 = 1 ∨ (∃ c ∈ hex, hexDigit c = none) →
      expandOp n (.crcHex hex) = .error .malformedHex) ∧
    (∀ ops : List ScriptOp,
      (∀ es : List (List AgentLine), es.length = ops.length →
        (∀ n o e, ops[n]? = some o → es[n]? = some e → expandOp n o = .ok e) →
        ∃ p : List AgentLine, assemble ops = .ok p ∧ p.length = es.flatten.length ∧
          (∀ (i : Nat) t, es.flatten[i]? = some (AgentLine.transaction t) → p[i]? = some (AgentLine.transaction t)) ∧
          (∀ (i : Nat) rd m v k, es.flatten[i]? = some (AgentLine.branch rd m v k) →
            p[i]? = some (AgentLine.branch rd m v (((es.map List.length).take k).sum)))) ∧
      ((∃ n o e, ops[n]? = some o ∧ expandOp n o = .error e) → ∃ e, assemble ops = .error e) ∧
      (∀ (s : State) (es : List Event), s.schedule = .script ops :: es →
        (∀ e, assemble ops = .error e → step s = .refused e) ∧
        (∀ p, assemble ops = .ok p →
          step s = .next { s with schedule := es, agent := { s.agent with program := p, pc := 0 } })))

/-- O50. R35 clause by clause: what the position of a run says, and where its clause (e) meets the steps (10_state.md §4,
43_serializer.md §2, log 9). -/
def Obligations.PositionOfARunCountsItsFrames : Prop :=
  (∀ s : State, s.seq.phase = .idle ↔ (statusWord s).getLsbD 0 = false) ∧
    (∀ s : State, s.Inv → s.seq.phase ≠ .idle →
      s.seq.burst.toNat ≤ s.plan.totalBursts.toNat ∧ (s.seq.phase ≠ .burstTop → s.seq.burst.toNat < s.plan.totalBursts.toNat) ∧
      s.seq.frame.toNat ≤ s.cfg.framesPerBurst.toNat ∧
      (s.seq.phase = .frame ∨ s.seq.phase = .ifg → s.seq.frame.toNat < s.cfg.framesPerBurst.toNat) ∧
      (s.seq.phase = .frame → s.seq.byte.toNat < s.cfg.maxFrameBytes.toNat ∧ s.seq.byte.toNat % 4 = 0) ∧
      (s.seq.phase = .frameTop → s.framesSent.toNat = s.seq.burst.toNat * s.cfg.framesPerBurst.toNat + s.seq.frame.toNat) ∧
      (s.seq.phase = .ifg → s.framesSent.toNat = s.seq.burst.toNat * s.cfg.framesPerBurst.toNat + s.seq.frame.toNat + 1) ∧
      (s.seq.phase = .burstTop → s.framesSent.toNat = s.seq.burst.toNat * s.cfg.framesPerBurst.toNat)) ∧
    (∀ s : State, s.start.seq.phase = .burstTop → s.seq.phase = .idle →
      s.start.framesSent.toNat = s.start.seq.burst.toNat * s.start.cfg.framesPerBurst.toNat + s.start.seq.frame.toNat) ∧
    (∀ (s : State) (ready : Bool), s.Inv → s.seq.phase = .eob → s.seq.fill = 0#64 →
      (s.turn ready).seq.phase = .burstTop ∧ (s.turn ready).seq.frame = s.cfg.framesPerBurst ∧
      ((s.turn ready).framesSent.toNat =
          (s.turn ready).seq.burst.toNat * s.cfg.framesPerBurst.toNat + (s.turn ready).seq.frame.toNat ↔
        s.cfg.framesPerBurst = 0#32)) ∧
    (∀ s : State, s.Inv →
      (s.seq.phase = .ifg → s.seq.fill = 0#64 → (s.turn true).seq.frame.toNat = s.seq.frame.toNat + 1) ∧
      (s.seq.phase = .eob → s.seq.fill = 0#64 → (s.turn true).seq.burst.toNat = s.seq.burst.toNat + 1) ∧
      (s.seq.phase = .ifg ∨ s.seq.phase = .eob → s.seq.fill ≠ 0#64 → (s.turn true).seq.fill.toNat + 1 = s.seq.fill.toNat) ∧
      (s.seq.phase = .frame → (s.turn true).seq.byte.toNat = min (s.seq.byte.toNat + 4) s.cfg.maxFrameBytes.toNat ∧
        ((s.turn true).seq.phase = .ifg → (s.turn true).framesSent.toNat = s.framesSent.toNat + 1)))
end

