-- ==== Sys2Proof/Laws/Decode.lean ====
section
/-! SUPPORT. The fields of a transaction word, the register map as a partial inverse of its offsets, and decoding by kind of
offset. -/

namespace Sys2Proof

/-- Every bit of `{WE, ADDR, WDATA}`. -/
theorem Transaction.make_getLsbD (we : Bool) (a : Offset) (x : Word) (i : Nat) :
    (Transaction.make we a x).getLsbD i =
      if i < 32 then x.getLsbD i else if i < 40 then a.getLsbD (i - 32) else decide (i = 40) && we := by
  have key : (BitVec.ofBool we ++ a ++ x : BitVec (1 + 8 + 32)).getLsbD i =
      if i < 32 then x.getLsbD i else if i < 40 then a.getLsbD (i - 32) else decide (i = 40) && we := by
    rw [BitVec.getLsbD_append, BitVec.getLsbD_append]
    by_cases h1 : i < 32
    · simp [h1]
    · by_cases h2 : i < 40
      · simp [h1, h2, show i - 32 < 8 by omega]
      · simp only [h1, h2, if_false, show ¬ i - 32 < 8 by omega, BitVec.getLsbD_ofBool]
        by_cases h3 : i = 40 <;> simp [h3]
        omega
  exact key

@[simp] theorem Transaction.make_we (we : Bool) (a : Offset) (x : Word) : (Transaction.make we a x).we = we := by
  have h := Transaction.make_getLsbD we a x 40
  simpa only [Transaction.we, show ¬(40 : Nat) < 32 by omega, show ¬(40 : Nat) < 40 by omega, if_false, decide_true,
    Bool.true_and] using h

@[simp] theorem Transaction.make_addr (we : Bool) (a : Offset) (x : Word) : (Transaction.make we a x).addr = a := by
  apply BitVec.eq_of_getLsbD_eq
  intro i hi
  simp [Transaction.addr, Transaction.make_getLsbD, hi, show 32 + i < 40 by omega]

@[simp] theorem Transaction.make_wdata (we : Bool) (a : Offset) (x : Word) : (Transaction.make we a x).wdata = x := by
  apply BitVec.eq_of_getLsbD_eq
  intro i hi
  simp [Transaction.wdata, Transaction.make_getLsbD, hi]

/-- A word is made of its three fields. -/
theorem Transaction.make_fields (t : Transaction) : Transaction.make t.we t.addr t.wdata = t := by
  apply BitVec.eq_of_getLsbD_eq
  intro i hi
  rw [Transaction.make_getLsbD]
  simp only [Transaction.addr, Transaction.wdata, Transaction.we, BitVec.getLsbD_extractLsb']
  by_cases h1 : i < 32
  · simp [h1]
  · by_cases h2 : i < 40
    · simp [h1, h2, show i - 32 < 8 by omega, show 32 + (i - 32) = i by omega]
    · obtain rfl : i = 40 := by omega
      simp

@[simp] theorem RegName.ofOffset_offset (r : RegName) : RegName.ofOffset r.offset = some r := by cases r <;> decide

@[simp] theorem RegName.offset_aligned (r : RegName) : Offset.aligned r.offset = true := by cases r <;> decide

/-- No register stands at a reserved offset. -/
theorem RegName.ofOffset_reserved (a : Offset) : Offset.reserved a = true → RegName.ofOffset a = none := by
  revert a; decide

/-- A register that an offset gives stands at that offset. -/
theorem RegName.ofOffset_some (a : Offset) (r : RegName) : RegName.ofOffset a = some r → r.offset = a := by
  intro h; have := List.find?_some h; simpa using this

/-- An aligned offset with no register is reserved. -/
theorem RegName.ofOffset_none (a : Offset) : Offset.aligned a = true → RegName.ofOffset a = none → Offset.reserved a = true := by
  revert a; decide

/-- A read word written out. -/
theorem Transaction.read_word (a : Offset) (x : Word) : (0#1 ++ a ++ x : BitVec 41) = Transaction.make false a x := rfl

/-- A write word written out. -/
theorem Transaction.write_word (a : Offset) (x : Word) : (1#1 ++ a ++ x : BitVec 41) = Transaction.make true a x := rfl

/-- Decoding a word at a defined register. -/
@[simp] theorem decode_register (we : Bool) (r : RegName) (x : Word) :
    decode (Transaction.make we r.offset x) = if we then Instr.writeOf x r else Instr.readOf r := by
  simp [decode]

/-- Decoding a word at a reserved offset. -/
theorem decode_reserved (we : Bool) (a : Offset) (x : Word) (h : Offset.reserved a = true) :
    decode (Transaction.make we a x) = if we then .wrRsvd a x else .rdRsvd a := by
  have h' : Offset.aligned a = true := by simp [Offset.reserved] at h; exact h.1
  simp [decode, h', RegName.ofOffset_reserved a h]

/-- Decoding a word at a misaligned offset. -/
theorem decode_misaligned (we : Bool) (a : Offset) (x : Word) (h : Offset.aligned a = false) :
    decode (Transaction.make we a x) = .misaligned we a x := by
  simp [decode, h]

end Sys2Proof
end

