-- ==== Sys2Proof/Laws/State.lean ====
section
/-! SUPPORT. What each field of a state is after each field update: one lemma per field per update, so that no later proof unfolds
a record update. -/

namespace Sys2Proof.Machine.State

@[simp] theorem withCfg_params (s : State) (c : TrafficProfile) : (s.withCfg c).params = s.params := rfl
@[simp] theorem withCfg_cfg (s : State) (c : TrafficProfile) : (s.withCfg c).cfg = c := rfl
@[simp] theorem withCfg_padToWord (s : State) (c : TrafficProfile) : (s.withCfg c).padToWord = s.padToWord := rfl
@[simp] theorem withCfg_status (s : State) (c : TrafficProfile) : (s.withCfg c).status = s.status := rfl
@[simp] theorem withCfg_plan (s : State) (c : TrafficProfile) : (s.withCfg c).plan = s.plan := rfl
@[simp] theorem withCfg_framesSent (s : State) (c : TrafficProfile) : (s.withCfg c).framesSent = s.framesSent := rfl
@[simp] theorem withCfg_lastFcs (s : State) (c : TrafficProfile) : (s.withCfg c).lastFcs = s.lastFcs := rfl
@[simp] theorem withCfg_hcrc (s : State) (c : TrafficProfile) : (s.withCfg c).hcrc = s.hcrc := rfl
@[simp] theorem withCfg_seq (s : State) (c : TrafficProfile) : (s.withCfg c).seq = s.seq := rfl
@[simp] theorem withCfg_stream (s : State) (c : TrafficProfile) : (s.withCfg c).stream = s.stream := rfl
@[simp] theorem withCfg_agent (s : State) (c : TrafficProfile) : (s.withCfg c).agent = s.agent := rfl
@[simp] theorem withCfg_schedule (s : State) (c : TrafficProfile) : (s.withCfg c).schedule = s.schedule := rfl

@[simp] theorem withPad_params (s : State) (b : Bool) : (s.withPad b).params = s.params := rfl
@[simp] theorem withPad_cfg (s : State) (b : Bool) : (s.withPad b).cfg = s.cfg := rfl
@[simp] theorem withPad_padToWord (s : State) (b : Bool) : (s.withPad b).padToWord = b := rfl
@[simp] theorem withPad_status (s : State) (b : Bool) : (s.withPad b).status = s.status := rfl
@[simp] theorem withPad_plan (s : State) (b : Bool) : (s.withPad b).plan = s.plan := rfl
@[simp] theorem withPad_framesSent (s : State) (b : Bool) : (s.withPad b).framesSent = s.framesSent := rfl
@[simp] theorem withPad_lastFcs (s : State) (b : Bool) : (s.withPad b).lastFcs = s.lastFcs := rfl
@[simp] theorem withPad_hcrc (s : State) (b : Bool) : (s.withPad b).hcrc = s.hcrc := rfl
@[simp] theorem withPad_seq (s : State) (b : Bool) : (s.withPad b).seq = s.seq := rfl
@[simp] theorem withPad_stream (s : State) (b : Bool) : (s.withPad b).stream = s.stream := rfl
@[simp] theorem withPad_agent (s : State) (b : Bool) : (s.withPad b).agent = s.agent := rfl
@[simp] theorem withPad_schedule (s : State) (b : Bool) : (s.withPad b).schedule = s.schedule := rfl

@[simp] theorem withStatus_params (s : State) (x : Status) : (s.withStatus x).params = s.params := rfl
@[simp] theorem withStatus_cfg (s : State) (x : Status) : (s.withStatus x).cfg = s.cfg := rfl
@[simp] theorem withStatus_padToWord (s : State) (x : Status) : (s.withStatus x).padToWord = s.padToWord := rfl
@[simp] theorem withStatus_status (s : State) (x : Status) : (s.withStatus x).status = x := rfl
@[simp] theorem withStatus_plan (s : State) (x : Status) : (s.withStatus x).plan = s.plan := rfl
@[simp] theorem withStatus_framesSent (s : State) (x : Status) : (s.withStatus x).framesSent = s.framesSent := rfl
@[simp] theorem withStatus_lastFcs (s : State) (x : Status) : (s.withStatus x).lastFcs = s.lastFcs := rfl
@[simp] theorem withStatus_hcrc (s : State) (x : Status) : (s.withStatus x).hcrc = s.hcrc := rfl
@[simp] theorem withStatus_seq (s : State) (x : Status) : (s.withStatus x).seq = s.seq := rfl
@[simp] theorem withStatus_stream (s : State) (x : Status) : (s.withStatus x).stream = s.stream := rfl
@[simp] theorem withStatus_agent (s : State) (x : Status) : (s.withStatus x).agent = s.agent := rfl
@[simp] theorem withStatus_schedule (s : State) (x : Status) : (s.withStatus x).schedule = s.schedule := rfl

@[simp] theorem withPlan_params (s : State) (r : PlanRegs) : (s.withPlan r).params = s.params := rfl
@[simp] theorem withPlan_cfg (s : State) (r : PlanRegs) : (s.withPlan r).cfg = s.cfg := rfl
@[simp] theorem withPlan_padToWord (s : State) (r : PlanRegs) : (s.withPlan r).padToWord = s.padToWord := rfl
@[simp] theorem withPlan_status (s : State) (r : PlanRegs) : (s.withPlan r).status = s.status := rfl
@[simp] theorem withPlan_plan (s : State) (r : PlanRegs) : (s.withPlan r).plan = r := rfl
@[simp] theorem withPlan_framesSent (s : State) (r : PlanRegs) : (s.withPlan r).framesSent = s.framesSent := rfl
@[simp] theorem withPlan_lastFcs (s : State) (r : PlanRegs) : (s.withPlan r).lastFcs = s.lastFcs := rfl
@[simp] theorem withPlan_hcrc (s : State) (r : PlanRegs) : (s.withPlan r).hcrc = s.hcrc := rfl
@[simp] theorem withPlan_seq (s : State) (r : PlanRegs) : (s.withPlan r).seq = s.seq := rfl
@[simp] theorem withPlan_stream (s : State) (r : PlanRegs) : (s.withPlan r).stream = s.stream := rfl
@[simp] theorem withPlan_agent (s : State) (r : PlanRegs) : (s.withPlan r).agent = s.agent := rfl
@[simp] theorem withPlan_schedule (s : State) (r : PlanRegs) : (s.withPlan r).schedule = s.schedule := rfl

@[simp] theorem withFramesSent_params (s : State) (n : Count) : (s.withFramesSent n).params = s.params := rfl
@[simp] theorem withFramesSent_cfg (s : State) (n : Count) : (s.withFramesSent n).cfg = s.cfg := rfl
@[simp] theorem withFramesSent_padToWord (s : State) (n : Count) : (s.withFramesSent n).padToWord = s.padToWord := rfl
@[simp] theorem withFramesSent_status (s : State) (n : Count) : (s.withFramesSent n).status = s.status := rfl
@[simp] theorem withFramesSent_plan (s : State) (n : Count) : (s.withFramesSent n).plan = s.plan := rfl
@[simp] theorem withFramesSent_framesSent (s : State) (n : Count) : (s.withFramesSent n).framesSent = n := rfl
@[simp] theorem withFramesSent_lastFcs (s : State) (n : Count) : (s.withFramesSent n).lastFcs = s.lastFcs := rfl
@[simp] theorem withFramesSent_hcrc (s : State) (n : Count) : (s.withFramesSent n).hcrc = s.hcrc := rfl
@[simp] theorem withFramesSent_seq (s : State) (n : Count) : (s.withFramesSent n).seq = s.seq := rfl
@[simp] theorem withFramesSent_stream (s : State) (n : Count) : (s.withFramesSent n).stream = s.stream := rfl
@[simp] theorem withFramesSent_agent (s : State) (n : Count) : (s.withFramesSent n).agent = s.agent := rfl
@[simp] theorem withFramesSent_schedule (s : State) (n : Count) : (s.withFramesSent n).schedule = s.schedule := rfl

@[simp] theorem withLastFcs_params (s : State) (v : Word) : (s.withLastFcs v).params = s.params := rfl
@[simp] theorem withLastFcs_cfg (s : State) (v : Word) : (s.withLastFcs v).cfg = s.cfg := rfl
@[simp] theorem withLastFcs_padToWord (s : State) (v : Word) : (s.withLastFcs v).padToWord = s.padToWord := rfl
@[simp] theorem withLastFcs_status (s : State) (v : Word) : (s.withLastFcs v).status = s.status := rfl
@[simp] theorem withLastFcs_plan (s : State) (v : Word) : (s.withLastFcs v).plan = s.plan := rfl
@[simp] theorem withLastFcs_framesSent (s : State) (v : Word) : (s.withLastFcs v).framesSent = s.framesSent := rfl
@[simp] theorem withLastFcs_lastFcs (s : State) (v : Word) : (s.withLastFcs v).lastFcs = v := rfl
@[simp] theorem withLastFcs_hcrc (s : State) (v : Word) : (s.withLastFcs v).hcrc = s.hcrc := rfl
@[simp] theorem withLastFcs_seq (s : State) (v : Word) : (s.withLastFcs v).seq = s.seq := rfl
@[simp] theorem withLastFcs_stream (s : State) (v : Word) : (s.withLastFcs v).stream = s.stream := rfl
@[simp] theorem withLastFcs_agent (s : State) (v : Word) : (s.withLastFcs v).agent = s.agent := rfl
@[simp] theorem withLastFcs_schedule (s : State) (v : Word) : (s.withLastFcs v).schedule = s.schedule := rfl

@[simp] theorem withHcrc_params (s : State) (v : Word) : (s.withHcrc v).params = s.params := rfl
@[simp] theorem withHcrc_cfg (s : State) (v : Word) : (s.withHcrc v).cfg = s.cfg := rfl
@[simp] theorem withHcrc_padToWord (s : State) (v : Word) : (s.withHcrc v).padToWord = s.padToWord := rfl
@[simp] theorem withHcrc_status (s : State) (v : Word) : (s.withHcrc v).status = s.status := rfl
@[simp] theorem withHcrc_plan (s : State) (v : Word) : (s.withHcrc v).plan = s.plan := rfl
@[simp] theorem withHcrc_framesSent (s : State) (v : Word) : (s.withHcrc v).framesSent = s.framesSent := rfl
@[simp] theorem withHcrc_lastFcs (s : State) (v : Word) : (s.withHcrc v).lastFcs = s.lastFcs := rfl
@[simp] theorem withHcrc_hcrc (s : State) (v : Word) : (s.withHcrc v).hcrc = v := rfl
@[simp] theorem withHcrc_seq (s : State) (v : Word) : (s.withHcrc v).seq = s.seq := rfl
@[simp] theorem withHcrc_stream (s : State) (v : Word) : (s.withHcrc v).stream = s.stream := rfl
@[simp] theorem withHcrc_agent (s : State) (v : Word) : (s.withHcrc v).agent = s.agent := rfl
@[simp] theorem withHcrc_schedule (s : State) (v : Word) : (s.withHcrc v).schedule = s.schedule := rfl

@[simp] theorem withSeq_params (s : State) (q : Sequencer) : (s.withSeq q).params = s.params := rfl
@[simp] theorem withSeq_cfg (s : State) (q : Sequencer) : (s.withSeq q).cfg = s.cfg := rfl
@[simp] theorem withSeq_padToWord (s : State) (q : Sequencer) : (s.withSeq q).padToWord = s.padToWord := rfl
@[simp] theorem withSeq_status (s : State) (q : Sequencer) : (s.withSeq q).status = s.status := rfl
@[simp] theorem withSeq_plan (s : State) (q : Sequencer) : (s.withSeq q).plan = s.plan := rfl
@[simp] theorem withSeq_framesSent (s : State) (q : Sequencer) : (s.withSeq q).framesSent = s.framesSent := rfl
@[simp] theorem withSeq_lastFcs (s : State) (q : Sequencer) : (s.withSeq q).lastFcs = s.lastFcs := rfl
@[simp] theorem withSeq_hcrc (s : State) (q : Sequencer) : (s.withSeq q).hcrc = s.hcrc := rfl
@[simp] theorem withSeq_seq (s : State) (q : Sequencer) : (s.withSeq q).seq = q := rfl
@[simp] theorem withSeq_stream (s : State) (q : Sequencer) : (s.withSeq q).stream = s.stream := rfl
@[simp] theorem withSeq_agent (s : State) (q : Sequencer) : (s.withSeq q).agent = s.agent := rfl
@[simp] theorem withSeq_schedule (s : State) (q : Sequencer) : (s.withSeq q).schedule = s.schedule := rfl

@[simp] theorem withStream_params (s : State) (bs : List Beat) : (s.withStream bs).params = s.params := rfl
@[simp] theorem withStream_cfg (s : State) (bs : List Beat) : (s.withStream bs).cfg = s.cfg := rfl
@[simp] theorem withStream_padToWord (s : State) (bs : List Beat) : (s.withStream bs).padToWord = s.padToWord := rfl
@[simp] theorem withStream_status (s : State) (bs : List Beat) : (s.withStream bs).status = s.status := rfl
@[simp] theorem withStream_plan (s : State) (bs : List Beat) : (s.withStream bs).plan = s.plan := rfl
@[simp] theorem withStream_framesSent (s : State) (bs : List Beat) : (s.withStream bs).framesSent = s.framesSent := rfl
@[simp] theorem withStream_lastFcs (s : State) (bs : List Beat) : (s.withStream bs).lastFcs = s.lastFcs := rfl
@[simp] theorem withStream_hcrc (s : State) (bs : List Beat) : (s.withStream bs).hcrc = s.hcrc := rfl
@[simp] theorem withStream_seq (s : State) (bs : List Beat) : (s.withStream bs).seq = s.seq := rfl
@[simp] theorem withStream_stream (s : State) (bs : List Beat) : (s.withStream bs).stream = bs := rfl
@[simp] theorem withStream_agent (s : State) (bs : List Beat) : (s.withStream bs).agent = s.agent := rfl
@[simp] theorem withStream_schedule (s : State) (bs : List Beat) : (s.withStream bs).schedule = s.schedule := rfl

@[simp] theorem withAgent_params (s : State) (h : HostAgent) : (s.withAgent h).params = s.params := rfl
@[simp] theorem withAgent_cfg (s : State) (h : HostAgent) : (s.withAgent h).cfg = s.cfg := rfl
@[simp] theorem withAgent_padToWord (s : State) (h : HostAgent) : (s.withAgent h).padToWord = s.padToWord := rfl
@[simp] theorem withAgent_status (s : State) (h : HostAgent) : (s.withAgent h).status = s.status := rfl
@[simp] theorem withAgent_plan (s : State) (h : HostAgent) : (s.withAgent h).plan = s.plan := rfl
@[simp] theorem withAgent_framesSent (s : State) (h : HostAgent) : (s.withAgent h).framesSent = s.framesSent := rfl
@[simp] theorem withAgent_lastFcs (s : State) (h : HostAgent) : (s.withAgent h).lastFcs = s.lastFcs := rfl
@[simp] theorem withAgent_hcrc (s : State) (h : HostAgent) : (s.withAgent h).hcrc = s.hcrc := rfl
@[simp] theorem withAgent_seq (s : State) (h : HostAgent) : (s.withAgent h).seq = s.seq := rfl
@[simp] theorem withAgent_stream (s : State) (h : HostAgent) : (s.withAgent h).stream = s.stream := rfl
@[simp] theorem withAgent_agent (s : State) (h : HostAgent) : (s.withAgent h).agent = h := rfl
@[simp] theorem withAgent_schedule (s : State) (h : HostAgent) : (s.withAgent h).schedule = s.schedule := rfl

@[simp] theorem withSchedule_params (s : State) (es : List Event) : (s.withSchedule es).params = s.params := rfl
@[simp] theorem withSchedule_cfg (s : State) (es : List Event) : (s.withSchedule es).cfg = s.cfg := rfl
@[simp] theorem withSchedule_padToWord (s : State) (es : List Event) : (s.withSchedule es).padToWord = s.padToWord := rfl
@[simp] theorem withSchedule_status (s : State) (es : List Event) : (s.withSchedule es).status = s.status := rfl
@[simp] theorem withSchedule_plan (s : State) (es : List Event) : (s.withSchedule es).plan = s.plan := rfl
@[simp] theorem withSchedule_framesSent (s : State) (es : List Event) : (s.withSchedule es).framesSent = s.framesSent := rfl
@[simp] theorem withSchedule_lastFcs (s : State) (es : List Event) : (s.withSchedule es).lastFcs = s.lastFcs := rfl
@[simp] theorem withSchedule_hcrc (s : State) (es : List Event) : (s.withSchedule es).hcrc = s.hcrc := rfl
@[simp] theorem withSchedule_seq (s : State) (es : List Event) : (s.withSchedule es).seq = s.seq := rfl
@[simp] theorem withSchedule_stream (s : State) (es : List Event) : (s.withSchedule es).stream = s.stream := rfl
@[simp] theorem withSchedule_agent (s : State) (es : List Event) : (s.withSchedule es).agent = s.agent := rfl
@[simp] theorem withSchedule_schedule (s : State) (es : List Event) : (s.withSchedule es).schedule = es := rfl

end Sys2Proof.Machine.State
end

