-- ==== Sys2Proof/Laws/Ops.lean ====
section
/-! SUPPORT. Everything the shared operations and the dispatcher can do, said once: field lemmas of the composite operations, their
independence of the environment, and the inversions of a CTRL write, of START, of a sequencer turn and of `exec`. -/

namespace Sys2Proof.Machine

/-! ### Phase and BUSY -/

@[simp] theorem State.busy_eq_true (s : State) : s.busy = true ↔ s.seq.phase ≠ .idle := by simp [State.busy]

@[simp] theorem State.busy_eq_false (s : State) : s.busy = false ↔ s.seq.phase = .idle := by simp [State.busy]

/-- BUSY depends on the sequencer alone. -/
theorem State.busy_congr {s t : State} (h : t.seq.phase = s.seq.phase) : t.busy = s.busy := by simp [State.busy, h]

@[simp] theorem State.busy_withAgent (s : State) (h : HostAgent) : (s.withAgent h).busy = s.busy := rfl
@[simp] theorem State.busy_withSchedule (s : State) (es : List Event) : (s.withSchedule es).busy = s.busy := rfl
@[simp] theorem State.busy_withCfg (s : State) (c : TrafficProfile) : (s.withCfg c).busy = s.busy := rfl
@[simp] theorem State.busy_withHcrc (s : State) (v : Word) : (s.withHcrc v).busy = s.busy := rfl
@[simp] theorem State.busy_withPad (s : State) (b : Bool) : (s.withPad b).busy = s.busy := rfl

/-! ### The configuration lock, the error state, the end of a run -/

/-- A configuration write stores while idle and does nothing while busy. -/
theorem writeLocked_eq (f : TrafficProfile → TrafficProfile) (s : State) :
    writeLocked f s = .next (if s.busy then s else s.withCfg (f s.cfg)) := by
  unfold writeLocked; split <;> rfl

@[simp] theorem State.raise_status (s : State) (e : ErrCode) : (s.raise e).status = ⟨true, false, e⟩ := rfl
@[simp] theorem State.raise_seq (s : State) (e : ErrCode) : (s.raise e).seq = s.seq := rfl
@[simp] theorem State.finish_status (s : State) (b : Bool) :
    (s.finish b).status = { s.status with done := true, cancelled := b } := rfl
@[simp] theorem State.finish_seq (s : State) (b : Bool) :
    (s.finish b).seq = { s.seq with phase := .idle, stopReq := false } := rfl
@[simp] theorem State.emit_stream (s : State) (b : Beat) : (s.emit b).stream = s.stream ++ [b] := rfl
@[simp] theorem State.emit_seq (s : State) (b : Beat) : (s.emit b).seq = s.seq := rfl

/-! ### START and the CTRL write -/

/-- Everything START can do: one of the three errors, or a run begins. -/
theorem State.start_cases (s : State) :
    (paramError s.cfg = true ∧ s.start = (s.clearOutcome.withPlan PlanRegs.zero).raise .param) ∨
    (paramError s.cfg = false ∧ rangeError s.cfg = true ∧
      s.start = (s.clearOutcome.withPlan PlanRegs.zero).raise .range) ∨
    (paramError s.cfg = false ∧ rangeError s.cfg = false ∧ sizeError s.cfg = true ∧
      s.start = (s.clearOutcome.withPlan (planRegs s.cfg)).raise .size) ∨
    (paramError s.cfg = false ∧ rangeError s.cfg = false ∧ sizeError s.cfg = false ∧
      s.start = (s.clearOutcome.withPlan (planRegs s.cfg)).withSeq (Sequencer.begin s.clearOutcome.seq)) := by
  unfold State.start
  cases hp : paramError s.cfg <;> cases hr : rangeError s.cfg <;> cases hs : sizeError s.cfg <;> simp

/-- Everything a CTRL write can do: busy, it may set the pending stop; idle, it stores the padding policy, and START may act. -/
theorem State.writeCtrl_cases (s : State) (x : Word) :
    (s.busy = true ∧ s.writeCtrl x = s.withSeq { s.seq with stopReq := s.seq.stopReq || ctrlStop x }) ∨
    (s.busy = false ∧ ctrlStart x = false ∧ s.writeCtrl x = s.withPad (ctrlPad x)) ∨
    (s.busy = false ∧ ctrlStart x = true ∧ s.writeCtrl x = (s.withPad (ctrlPad x)).start) := by
  unfold State.writeCtrl
  cases hb : s.busy <;> cases h0 : ctrlStart x <;> cases h1 : ctrlStop x <;> simp <;> rfl

@[simp] theorem State.start_withAgent (s : State) (h : HostAgent) : (s.withAgent h).start = s.start.withAgent h := by
  unfold State.start
  cases hp : paramError s.cfg <;> cases hr : rangeError s.cfg <;> cases hs : sizeError s.cfg <;> simp [hp, hr, hs] <;> rfl

@[simp] theorem State.start_withSchedule (s : State) (es : List Event) : (s.withSchedule es).start = s.start.withSchedule es := by
  unfold State.start
  cases hp : paramError s.cfg <;> cases hr : rangeError s.cfg <;> cases hs : sizeError s.cfg <;> simp [hp, hr, hs] <;> rfl

@[simp] theorem State.start_withHcrc (s : State) (v : Word) : (s.withHcrc v).start = s.start.withHcrc v := by
  unfold State.start
  cases hp : paramError s.cfg <;> cases hr : rangeError s.cfg <;> cases hs : sizeError s.cfg <;> simp [hp, hr, hs] <;> rfl

@[simp] theorem State.start_cfg (s : State) : s.start.cfg = s.cfg := by
  obtain ⟨_, h⟩ | ⟨_, _, h⟩ | ⟨_, _, _, h⟩ | ⟨_, _, _, h⟩ := s.start_cases <;> rw [h] <;> rfl

@[simp] theorem State.start_padToWord (s : State) : s.start.padToWord = s.padToWord := by
  obtain ⟨_, h⟩ | ⟨_, _, h⟩ | ⟨_, _, _, h⟩ | ⟨_, _, _, h⟩ := s.start_cases <;> rw [h] <;> rfl

@[simp] theorem State.start_params (s : State) : s.start.params = s.params := by
  obtain ⟨_, h⟩ | ⟨_, _, h⟩ | ⟨_, _, _, h⟩ | ⟨_, _, _, h⟩ := s.start_cases <;> rw [h] <;> rfl

@[simp] theorem State.start_hcrc (s : State) : s.start.hcrc = s.hcrc := by
  obtain ⟨_, h⟩ | ⟨_, _, h⟩ | ⟨_, _, _, h⟩ | ⟨_, _, _, h⟩ := s.start_cases <;> rw [h] <;> rfl

@[simp] theorem State.start_stream (s : State) : s.start.stream = s.stream := by
  obtain ⟨_, h⟩ | ⟨_, _, h⟩ | ⟨_, _, _, h⟩ | ⟨_, _, _, h⟩ := s.start_cases <;> rw [h] <;> rfl

@[simp] theorem State.start_agent (s : State) : s.start.agent = s.agent := by
  obtain ⟨_, h⟩ | ⟨_, _, h⟩ | ⟨_, _, _, h⟩ | ⟨_, _, _, h⟩ := s.start_cases <;> rw [h] <;> rfl

@[simp] theorem State.start_schedule (s : State) : s.start.schedule = s.schedule := by
  obtain ⟨_, h⟩ | ⟨_, _, h⟩ | ⟨_, _, _, h⟩ | ⟨_, _, _, h⟩ := s.start_cases <;> rw [h] <;> rfl

@[simp] theorem State.start_framesSent (s : State) : s.start.framesSent = 0#64 := by
  obtain ⟨_, h⟩ | ⟨_, _, h⟩ | ⟨_, _, _, h⟩ | ⟨_, _, _, h⟩ := s.start_cases <;> rw [h] <;> rfl

@[simp] theorem State.start_lastFcs (s : State) : s.start.lastFcs = 0#32 := by
  obtain ⟨_, h⟩ | ⟨_, _, h⟩ | ⟨_, _, _, h⟩ | ⟨_, _, _, h⟩ := s.start_cases <;> rw [h] <;> rfl

@[simp] theorem State.start_stopReq (s : State) : s.start.seq.stopReq = false := by
  obtain ⟨_, h⟩ | ⟨_, _, h⟩ | ⟨_, _, _, h⟩ | ⟨_, _, _, h⟩ := s.start_cases <;> rw [h] <;> rfl

@[simp] theorem State.writeCtrl_withAgent (s : State) (x : Word) (h : HostAgent) :
    (s.withAgent h).writeCtrl x = (s.writeCtrl x).withAgent h := by
  unfold State.writeCtrl
  cases hb : s.busy <;> cases h0 : ctrlStart x <;> cases h1 : ctrlStop x <;> simp [hb] <;>
    first | rfl | exact State.start_withAgent (s.withPad (ctrlPad x)) h

@[simp] theorem State.writeCtrl_withSchedule (s : State) (x : Word) (es : List Event) :
    (s.withSchedule es).writeCtrl x = (s.writeCtrl x).withSchedule es := by
  unfold State.writeCtrl
  cases hb : s.busy <;> cases h0 : ctrlStart x <;> cases h1 : ctrlStop x <;> simp [hb] <;>
    first | rfl | exact State.start_withSchedule (s.withPad (ctrlPad x)) es

/-! ### The dispatcher -/

/-- Everything a bus operation that completes can do. -/
theorem exec_cases {i : Instr} {s s' : State} (h : exec i s = .next s') :
    (∃ v, s' = s.withAgent { s.agent with reads := s.agent.reads ++ [v] }) ∨
    s' = s ∨
    (s.busy = false ∧ ∃ c, s' = s.withCfg c) ∨
    ((∃ x, i = .wrCrcInit x ∨ i = .wrCrcData x) ∧ ∃ v, s' = s.withHcrc v) ∨
    (∃ x, i = .wrCtrl x ∧ s' = s.writeCtrl x) := by
  have locked : ∀ f, writeLocked f s = .next s' → s' = s ∨ (s.busy = false ∧ ∃ c, s' = s.withCfg c) := by
    intro f hf
    rw [writeLocked_eq] at hf
    cases hb : s.busy <;> simp only [hb] at hf <;> cases hf
    · exact .inr ⟨rfl, _, rfl⟩
    · exact .inl rfl
  cases i
  case wrCtrl x => cases h; exact .inr (.inr (.inr (.inr ⟨x, rfl, rfl⟩)))
  case wrCrcInit x => cases h; exact .inr (.inr (.inr (.inl ⟨⟨x, .inl rfl⟩, _, rfl⟩)))
  case wrCrcData x => cases h; exact .inr (.inr (.inr (.inl ⟨⟨x, .inr rfl⟩, _, rfl⟩)))
  case misaligned => cases h
  all_goals first
    | (cases h; exact .inl ⟨_, rfl⟩)
    | (cases h; exact .inr (.inl rfl))
    | (simp only [exec, execWrLineRateGbps, execWrCaptureMs, execWrMinIfgBytes, execWrDestMacHi, execWrDestMacLo, execWrSrcMacHi,
         execWrSrcMacLo, execWrMaxFrameBytes, execWrFramesPerBurst, execWrBurstPeriodUs] at h
       obtain h | h := locked _ h
       · exact .inr (.inl h)
       · exact .inr (.inr (.inl h)))

end Sys2Proof.Machine
end

