-- ==== Sys2Proof/Laws/Sequencer.lean ====
section
/-! SUPPORT. Everything a sequencer turn can do, said once, and its independence of the host and of the events to come. -/

namespace Sys2Proof.Machine

/-- The step in phase `BURST_TOP`: the end of the run, its cancellation, or the next burst. -/
theorem State.stepBurstTop_cases (s : State) :
    (s.seq.burst = s.plan.totalBursts ∧ s.stepBurstTop = s.finish false) ∨
    (s.seq.burst ≠ s.plan.totalBursts ∧ s.seq.stopReq = true ∧ s.stepBurstTop = s.finish true) ∨
    (s.seq.burst ≠ s.plan.totalBursts ∧ s.seq.stopReq = false ∧
      s.stepBurstTop = s.withSeq { s.seq with frame := 0#32, phase := .frameTop }) := by
  unfold State.stepBurstTop
  by_cases h : s.seq.burst = s.plan.totalBursts <;> cases h' : s.seq.stopReq <;> simp [h]

/-- The step in phase `FRAME_TOP`: the end-of-burst filler, the cancellation, or the next frame. -/
theorem State.stepFrameTop_cases (s : State) :
    (s.seq.frame = s.cfg.framesPerBurst ∧ s.stepFrameTop = s.withSeq { s.seq with fill := s.plan.eobWords, phase := .eob }) ∨
    (s.seq.frame ≠ s.cfg.framesPerBurst ∧ s.seq.stopReq = true ∧ s.stepFrameTop = s.finish true) ∨
    (s.seq.frame ≠ s.cfg.framesPerBurst ∧ s.seq.stopReq = false ∧
      s.stepFrameTop = s.withSeq { s.seq with byte := 0#32, fcs := crcInitValue, phase := .frame }) := by
  unfold State.stepFrameTop
  by_cases h : s.seq.frame = s.cfg.framesPerBurst <;> cases h' : s.seq.stopReq <;> simp [h]

/-- `seq.byte` after the next frame beat. -/
def State.nextByte (s : State) : Word := BitVec.ofNat 32 (s.seq.byte.toNat + s.laneCount)

/-- `seq.fcs` after the next frame beat, and that beat's octets. -/
def State.nextLanes (s : State) : Word × List Byte := frameLanes s.params s.cfg s.seq.fcs s.seq.byte.toNat s.laneCount

/-- The next frame beat. -/
def State.nextBeat (s : State) : Beat := { nb := beatCount s.padToWord s.laneCount, data := packLanes s.nextLanes.2 }

/-- The step in phase `FRAME`: a beat inside the frame, or its last one. -/
theorem State.stepFrame_cases (s : State) :
    (s.nextByte ≠ s.cfg.maxFrameBytes ∧
      s.stepFrame = (s.emit s.nextBeat).withSeq { s.seq with byte := s.nextByte, fcs := s.nextLanes.1 }) ∨
    (s.nextByte = s.cfg.maxFrameBytes ∧
      s.stepFrame = (((s.emit s.nextBeat).withFramesSent (s.framesSent + 1#64)).withLastFcs (crcFinal s.nextLanes.1)).withSeq
        { s.seq with byte := s.nextByte, fcs := s.nextLanes.1, fill := s.plan.ifgWords.setWidth 64, phase := .ifg }) := by
  unfold State.stepFrame
  by_cases h : s.nextByte = s.cfg.maxFrameBytes
  · exact .inr ⟨h, if_pos h⟩
  · exact .inl ⟨h, if_neg h⟩

/-- Everything a sequencer turn can do. -/
theorem State.turn_cases (s : State) (ready : Bool) :
    ((s.seq.phase = .idle ∨ (s.wantsSink = true ∧ ready = false)) ∧ s.turn ready = s) ∨
    (s.seq.phase = .burstTop ∧ s.turn ready = s.stepBurstTop) ∨
    (s.seq.phase = .frameTop ∧ s.turn ready = s.stepFrameTop) ∨
    (s.seq.phase = .frame ∧ ready = true ∧ s.turn ready = s.stepFrame) ∨
    (s.seq.phase = .ifg ∧ s.seq.fill = 0#64 ∧ s.turn ready = s.leaveIfg) ∨
    (s.seq.phase = .eob ∧ s.seq.fill = 0#64 ∧ s.turn ready = s.leaveEob) ∨
    ((s.seq.phase = .ifg ∨ s.seq.phase = .eob) ∧ s.seq.fill ≠ 0#64 ∧ ready = true ∧ s.turn ready = s.emitFiller) := by
  unfold State.turn State.candidate State.wantsSink State.stepIfg State.stepEob
  cases hp : s.seq.phase <;> by_cases hf : s.seq.fill = 0#64 <;> cases ready <;> simp [hf]

/-- What no turn changes. -/
theorem State.turn_keeps (s : State) (ready : Bool) :
    (s.turn ready).cfg = s.cfg ∧ (s.turn ready).padToWord = s.padToWord ∧ (s.turn ready).plan = s.plan ∧
      (s.turn ready).params = s.params ∧ (s.turn ready).hcrc = s.hcrc ∧ (s.turn ready).status.err = s.status.err := by
  obtain ⟨_, e⟩ | ⟨_, e⟩ | ⟨_, e⟩ | ⟨_, _, e⟩ | ⟨_, _, e⟩ | ⟨_, _, e⟩ | ⟨_, _, _, e⟩ := s.turn_cases ready <;> rw [e]
  · exact ⟨rfl, rfl, rfl, rfl, rfl, rfl⟩
  · obtain ⟨_, e⟩ | ⟨_, _, e⟩ | ⟨_, _, e⟩ := s.stepBurstTop_cases <;> rw [e] <;> exact ⟨rfl, rfl, rfl, rfl, rfl, rfl⟩
  · obtain ⟨_, e⟩ | ⟨_, _, e⟩ | ⟨_, _, e⟩ := s.stepFrameTop_cases <;> rw [e] <;> exact ⟨rfl, rfl, rfl, rfl, rfl, rfl⟩
  · obtain ⟨_, e⟩ | ⟨_, e⟩ := s.stepFrame_cases <;> rw [e] <;> exact ⟨rfl, rfl, rfl, rfl, rfl, rfl⟩
  all_goals exact ⟨rfl, rfl, rfl, rfl, rfl, rfl⟩

@[simp] theorem State.laneCount_withAgent (s : State) (h : HostAgent) : (s.withAgent h).laneCount = s.laneCount := rfl

theorem State.stepBurstTop_withAgent (s : State) (h : HostAgent) : (s.withAgent h).stepBurstTop = s.stepBurstTop.withAgent h := by
  by_cases hc : s.seq.burst = s.plan.totalBursts <;> cases hq : s.seq.stopReq <;> simp [State.stepBurstTop, hc, hq] <;> rfl

theorem State.stepFrameTop_withAgent (s : State) (h : HostAgent) : (s.withAgent h).stepFrameTop = s.stepFrameTop.withAgent h := by
  by_cases hc : s.seq.frame = s.cfg.framesPerBurst <;> cases hq : s.seq.stopReq <;> simp [State.stepFrameTop, hc, hq] <;> rfl

theorem State.stepIfg_withAgent (s : State) (h : HostAgent) : (s.withAgent h).stepIfg = s.stepIfg.withAgent h := by
  by_cases hc : s.seq.fill = 0#64 <;> simp [State.stepIfg, hc] <;> rfl

theorem State.stepEob_withAgent (s : State) (h : HostAgent) : (s.withAgent h).stepEob = s.stepEob.withAgent h := by
  by_cases hc : s.seq.fill = 0#64 <;> simp [State.stepEob, hc] <;> rfl

theorem State.stepFrame_withAgent (s : State) (h : HostAgent) : (s.withAgent h).stepFrame = s.stepFrame.withAgent h := by
  obtain ⟨n, e⟩ | ⟨n, e⟩ := s.stepFrame_cases <;> obtain ⟨n', e'⟩ | ⟨n', e'⟩ := (s.withAgent h).stepFrame_cases <;>
    first | exact absurd n' n | exact absurd n n' | (rw [e, e']; rfl)

/-- The host is no part of what a turn reads or writes. -/
@[simp] theorem State.turn_withAgent (s : State) (h : HostAgent) (ready : Bool) :
    (s.withAgent h).turn ready = (s.turn ready).withAgent h := by
  unfold State.turn State.candidate State.wantsSink
  rw [s.stepBurstTop_withAgent, s.stepFrameTop_withAgent, s.stepFrame_withAgent, s.stepIfg_withAgent, s.stepEob_withAgent]
  cases hp : s.seq.phase <;> by_cases hf : s.seq.fill = 0#64 <;> cases ready <;> simp [hp, hf]

@[simp] theorem State.laneCount_withSchedule (s : State) (es : List Event) : (s.withSchedule es).laneCount = s.laneCount := rfl

theorem State.stepBurstTop_withSchedule (s : State) (es : List Event) : (s.withSchedule es).stepBurstTop = s.stepBurstTop.withSchedule es := by
  by_cases hc : s.seq.burst = s.plan.totalBursts <;> cases hq : s.seq.stopReq <;> simp [State.stepBurstTop, hc, hq] <;> rfl

theorem State.stepFrameTop_withSchedule (s : State) (es : List Event) : (s.withSchedule es).stepFrameTop = s.stepFrameTop.withSchedule es := by
  by_cases hc : s.seq.frame = s.cfg.framesPerBurst <;> cases hq : s.seq.stopReq <;> simp [State.stepFrameTop, hc, hq] <;> rfl

theorem State.stepIfg_withSchedule (s : State) (es : List Event) : (s.withSchedule es).stepIfg = s.stepIfg.withSchedule es := by
  by_cases hc : s.seq.fill = 0#64 <;> simp [State.stepIfg, hc] <;> rfl

theorem State.stepEob_withSchedule (s : State) (es : List Event) : (s.withSchedule es).stepEob = s.stepEob.withSchedule es := by
  by_cases hc : s.seq.fill = 0#64 <;> simp [State.stepEob, hc] <;> rfl

theorem State.stepFrame_withSchedule (s : State) (es : List Event) : (s.withSchedule es).stepFrame = s.stepFrame.withSchedule es := by
  obtain ⟨n, e⟩ | ⟨n, e⟩ := s.stepFrame_cases <;> obtain ⟨n', e'⟩ | ⟨n', e'⟩ := (s.withSchedule es).stepFrame_cases <;>
    first | exact absurd n' n | exact absurd n n' | (rw [e, e']; rfl)

/-- The events to come are no part of what a turn reads or writes. -/
@[simp] theorem State.turn_withSchedule (s : State) (es : List Event) (ready : Bool) :
    (s.withSchedule es).turn ready = (s.turn ready).withSchedule es := by
  unfold State.turn State.candidate State.wantsSink
  rw [s.stepBurstTop_withSchedule, s.stepFrameTop_withSchedule, s.stepFrame_withSchedule, s.stepIfg_withSchedule,
    s.stepEob_withSchedule]
  cases hp : s.seq.phase <;> by_cases hf : s.seq.fill = 0#64 <;> cases ready <;> simp [hp, hf]

end Sys2Proof.Machine
end

