-- ==== Sys2Proof/Laws/Frame.lean ====
section
/-! SUPPORT. The octets of a frame by position, the lanes of a beat, the beats of a frame by index, and what the lanes of a frame
step hold. -/

namespace Sys2Proof.Machine

/-- Folding one sequence and then another. -/
theorem crcFold_append (c : Word) (a b : List Byte) : crcFold c (a ++ b) = crcFold (crcFold c a) b := List.foldl_append

@[simp] theorem bodyPrefix_length (p : Params) (c : TrafficProfile) (n : Nat) : (bodyPrefix p c n).length = n := by
  simp [bodyPrefix]

theorem bodyPrefix_succ (p : Params) (c : TrafficProfile) (n : Nat) :
    bodyPrefix p c (n + 1) = bodyPrefix p c n ++ [frameByte p c n] := by
  simp [bodyPrefix, List.range_succ]

theorem bodyPrefix_getElem? (p : Params) (c : TrafficProfile) (n i : Nat) (h : i < n) :
    (bodyPrefix p c n)[i]? = some (frameByte p c i) := by
  simp [bodyPrefix, h]

theorem wordOctets_getElem? (v : Word) (j : Nat) (h : j < 4) : (wordOctets v)[j]? = some (octetAt v (24 - 8 * j)) := by
  match j, h with
  | 0, _ => rfl
  | 1, _ => rfl
  | 2, _ => rfl
  | 3, _ => rfl

/-- A frame has `S` octets. -/
theorem frameOctets_length (p : Params) (c : TrafficProfile) (h : 4 ≤ c.frameBytes) :
    (frameOctets p c).length = c.frameBytes := by
  simp [frameOctets, frameBody, wordOctets]; omega

/-- Before the last four, octet `i` of a frame is `FrameByte(cfg, i)`. -/
theorem frameOctets_body (p : Params) (c : TrafficProfile) (i : Nat) (h : i + 4 < c.frameBytes) :
    (frameOctets p c)[i]? = some (frameByte p c i) := by
  rw [frameOctets, frameBody, List.getElem?_append_left (by simp; omega), bodyPrefix_getElem? _ _ _ _ (by omega)]

/-- The last four octets of a frame are its FCS. -/
theorem frameOctets_fcs (p : Params) (c : TrafficProfile) (i : Nat) (h4 : 4 ≤ c.frameBytes) (h : ¬ i + 4 < c.frameBytes)
    (hi : i < c.frameBytes) : (frameOctets p c)[i]? = some (octetAt (frameFcs p c) (24 - 8 * (i + 4 - c.frameBytes))) := by
  rw [frameOctets, frameBody, List.getElem?_append_right (by simp; omega), wordOctets_getElem? _ _ (by simp; omega)]
  simp only [bodyPrefix_length]
  rw [show i - (c.frameBytes - 4) = i + 4 - c.frameBytes by omega]

/-- The four octets of a word built from four. -/
theorem octetAt_append (a b c d : Byte) (j : Nat) (h : j < 4) :
    octetAt (a ++ b ++ c ++ d : Word) (24 - 8 * j) = [a, b, c, d].getD j 0#8 := by
  have hj : j = 0 ∨ j = 1 ∨ j = 2 ∨ j = 3 := by omega
  obtain rfl | rfl | rfl | rfl := hj <;> apply BitVec.eq_of_getLsbD_eq <;> intro i hi <;>
    simp only [octetAt, BitVec.getLsbD_extractLsb', hi, decide_true, Bool.true_and, List.getD]
  all_goals
    refine Eq.trans (BitVec.getLsbD_append (n := 24) (m := 8) (x := a ++ b ++ c) (y := d)) ?_
    rw [show (a ++ b ++ c : BitVec 24) = ((a ++ b : BitVec 16) ++ c : BitVec (16 + 8)) from rfl, BitVec.getLsbD_append,
      BitVec.getLsbD_append]
    repeat first | rw [if_neg (by omega)] | rw [if_pos (by omega)]
    simp [hi, show 24 + i - 8 - 8 - 8 = i by omega, show 16 + i - 8 - 8 = i by omega, show 8 + i - 8 = i by omega]

/-- Lane `j` of packed octets is octet `j`, or 0 where there is none. -/
theorem octetAt_packLanes (os : List Byte) (j : Nat) (h : j < 4) : octetAt (packLanes os) (24 - 8 * j) = os.getD j 0#8 := by
  refine (octetAt_append _ _ _ _ j h).trans ?_
  have hj : j = 0 ∨ j = 1 ∨ j = 2 ∨ j = 3 := by omega
  obtain rfl | rfl | rfl | rfl := hj <;> rfl

/-- `NB` of a beat of up to four octets. -/
theorem beatCount_toNat (pad : Bool) (n : Nat) (h : n ≤ 4) :
    (beatCount pad n).toNat = if n < 4 ∧ pad = true then 4 else n := by
  unfold beatCount
  split
  · rfl
  · simp; omega

theorem frameBeats_length (p : Params) (c : TrafficProfile) (pad : Bool) :
    (frameBeats p c pad).length = (c.frameBytes + 3) / 4 := by
  simp [frameBeats, beatsPerFrame]

theorem frameBeats_getElem? (p : Params) (c : TrafficProfile) (pad : Bool) (k : Nat) (h : 4 * k < c.frameBytes) :
    (frameBeats p c pad)[k]? = some (frameBeat p c pad k) := by
  unfold frameBeats beatsPerFrame
  rw [List.getElem?_map, List.getElem?_range (by omega)]; rfl

theorem fillerBeat_wellFormed : fillerBeat.wellFormed := by
  refine ⟨by decide, by decide, ?_⟩
  intro j h _
  have : fillerBeat.nb.toNat = 4 := rfl
  omega

/-- Every beat of a frame is one that 30_encoding R64 allows. -/
theorem frameBeat_wellFormed (p : Params) (c : TrafficProfile) (pad : Bool) (k : Nat) (h4 : 4 ≤ c.frameBytes)
    (h : 4 * k < c.frameBytes) : (frameBeat p c pad k).wellFormed := by
  have e : (frameBeat p c pad k).nb.toNat = _ := beatCount_toNat pad (min 4 (c.frameBytes - 4 * k)) (by omega)
  refine ⟨?_, ?_, ?_⟩
  · rw [e]; split <;> omega
  · rw [e]; split <;> omega
  · intro j h1 h2
    rw [e] at h1
    show octetAt (packLanes _) _ = _
    have hl := frameOctets_length p c h4
    rw [octetAt_packLanes _ _ h2, List.getD_eq_getElem?_getD, List.getElem?_eq_none]
    · rfl
    · simp [hl]
      split at h1 <;> omega

/-- The lanes of a frame step, one lane at a time. -/
theorem frameLanes_succ (p : Params) (c : TrafficProfile) (f : Word) (k m : Nat) :
    frameLanes p c f k (m + 1) = frameLane p c (frameLanes p c f k m) (k + m) := by
  simp [frameLanes, List.range'_concat]

/-- What `m` lanes of a frame step hold, from octet `k` on, where the FCS register has folded the body octets before `k`: the
frame's own octets, and the register over the body octets so far. -/
theorem frameLanes_eq (p : Params) (c : TrafficProfile) (k m : Nat) (h4 : 4 ≤ c.frameBytes) (hk : k + m ≤ c.frameBytes) :
    frameLanes p c (crcFold crcInitValue (bodyPrefix p c (min k (c.frameBytes - 4)))) k m =
      (crcFold crcInitValue (bodyPrefix p c (min (k + m) (c.frameBytes - 4))), ((frameOctets p c).drop k).take m) := by
  induction m with
  | zero => simp [frameLanes]
  | succ m ih =>
    have ht : ((frameOctets p c).drop k).take (m + 1) =
        ((frameOctets p c).drop k).take m ++ ((frameOctets p c)[k + m]?).toList := by
      rw [List.take_add_one, List.getElem?_drop]
    rw [frameLanes_succ, ih (by omega), ht]
    unfold frameLane
    by_cases h : k + m + 4 < c.frameBytes
    · rw [if_pos h, frameOctets_body p c _ h, show min (k + (m + 1)) (c.frameBytes - 4) = k + m + 1 by omega,
        show min (k + m) (c.frameBytes - 4) = k + m by omega, bodyPrefix_succ, crcFold_append]
      rfl
    · rw [if_neg h, frameOctets_fcs p c _ h4 h (by omega), show min (k + (m + 1)) (c.frameBytes - 4) = c.frameBytes - 4 by omega,
        show min (k + m) (c.frameBytes - 4) = c.frameBytes - 4 by omega]
      rfl

end Sys2Proof.Machine
end

