-- ==== Sys2Proof/Laws/HostScript.lean ====
section
/-! SUPPORT. What the host's tools read and write, said once: digits and the numbers they spell, the value a record gives a key, and
the expansion of a whole script. -/

namespace Sys2Proof.Machine

/-! ### Digits -/

theorem hexDigit_lt {c : Char} {k : Nat} (h : hexDigit c = some k) : k < 16 := by
  unfold hexDigit at h
  simp only [Char.reduceToNat] at h
  split at h
  · cases h; omega
  · split at h
    · cases h; omega
    · split at h
      · cases h; omega
      · cases h

/-- Every character is a digit of the list, in one case or the other, or no digit. -/
theorem hexDigit_none_of_not_mem {c : Char} (hc : c ∉ "0123456789ABCDEFabcdef".toList) : hexDigit c = none := by
  have all : ∀ n, n < 128 → (hexDigit (Char.ofNat n) = none ∨ Char.ofNat n ∈ "0123456789ABCDEFabcdef".toList) := by decide
  by_cases h : c.toNat < 128
  · have := all c.toNat h
    rw [Char.ofNat_toNat] at this
    exact this.resolve_right hc
  · unfold hexDigit
    simp only [Char.reduceToNat]
    rw [if_neg (by omega), if_neg (by omega), if_neg (by omega)]

/-- Digits that are those of a number spell it, after a value read so far. -/
theorem parseDigits_of_digits (t : Text) (m : Nat) : ∀ acc,
    (∀ j, j < t.length → ∃ c, t[j]? = some c ∧ hexDigit c = some (m / 16 ^ (t.length - 1 - j) % 16)) →
    parseDigits 16 hexDigit acc t = some (acc * 16 ^ t.length + m % 16 ^ t.length) := by
  induction t with
  | nil => intro acc _; simp [parseDigits, Nat.mod_one]
  | cons a as ih =>
    intro acc h
    obtain ⟨c, hc, hd⟩ := h 0 (by simp)
    cases hc
    unfold parseDigits
    rw [hd]
    simp only
    rw [ih]
    · have e : m % 16 ^ (as.length + 1) = m % 16 ^ as.length + 16 ^ as.length * (m / 16 ^ as.length % 16) := by
        rw [pow_succ]; exact Nat.mod_mul
      simp only [List.length_cons, Nat.add_sub_cancel, Nat.sub_zero, Option.some.injEq]
      rw [e, pow_succ]
      ring
    · intro j hj
      obtain ⟨c, hc, hd⟩ := h (j + 1) (by simpa using hj)
      refine ⟨c, by simpa using hc, ?_⟩
      rw [hd, List.length_cons, show as.length + 1 - 1 - (j + 1) = as.length - 1 - j by omega]

theorem parseDigits_none {cs : Text} : ∀ {acc}, (∃ c ∈ cs, hexDigit c = none) → parseDigits 16 hexDigit acc cs = none := by
  induction cs with
  | nil => intro acc ⟨c, h, _⟩; cases h
  | cons a as ih =>
    intro acc ⟨c, h, hc⟩
    unfold parseDigits
    cases h with
    | head => rw [hc]
    | tail _ h =>
      cases hexDigit a with
      | none => rfl
      | some d => exact ih ⟨c, h, hc⟩

/-! ### MAC addresses -/

/-- A text that is not 12 hexadecimal digits is no address. -/
theorem parseMac_none {hex : Text} (h : hex.length ≠ 12 ∨ ∃ c ∈ hex, hexDigit c = none) : parseMac hex = none := by
  unfold parseMac
  by_cases hl : hex.length = 12
  · rw [if_pos hl, parseDigits_none (h.resolve_left (fun q => q hl))]; rfl
  · rw [if_neg hl]

theorem nibble_toNat (m : BitVec 48) (j : Nat) (h : j < 12) : (m.extractLsb' (44 - 4 * j) 4).toNat = m.toNat / 16 ^ (11 - j) % 16 := by
  rw [BitVec.extractLsb'_toNat, Nat.shiftRight_eq_div_pow, show (16 : Nat) = 2 ^ 4 by rfl, ← pow_mul,
    show 4 * (11 - j) = 44 - 4 * j by omega]

/-- The address that a text spells is the one that is read from it. -/
theorem parseMac_of_spells {t : Text} {m : BitVec 48} (h : SpellsMac t m) : parseMac t = some m := by
  unfold parseMac
  rw [if_pos h.1, parseDigits_of_digits t m.toNat]
  · have := m.isLt
    rw [h.1]
    simp only [Nat.zero_mul, Nat.zero_add, Option.map_some, Option.some.injEq]
    rw [Nat.mod_eq_of_lt (by omega)]
    simp
  · rw [h.1]
    intro j hj
    obtain ⟨c, hc, hd⟩ := h.2 j hj
    exact ⟨c, hc, by rw [hd, nibble_toNat m j hj]⟩

/-- The number of a text of hexadecimal digits. -/
def hexValue : Text → Nat
  | [] => 0
  | c :: cs => (hexDigit c).getD 0 * 16 ^ cs.length + hexValue cs

theorem hexValue_lt (t : Text) : hexValue t < 16 ^ t.length := by
  induction t with
  | nil => simp [hexValue]
  | cons c cs ih =>
    have : (hexDigit c).getD 0 < 16 := by
      cases h : hexDigit c with
      | none => simp
      | some k => exact hexDigit_lt h
    simp only [hexValue, List.length_cons, pow_succ]
    nlinarith

theorem hexValue_digit : ∀ (t : Text), (∀ c ∈ t, hexDigit c ≠ none) → ∀ j, j < t.length →
    ∃ c, t[j]? = some c ∧ hexDigit c = some (hexValue t / 16 ^ (t.length - 1 - j) % 16) := by
  intro t
  induction t with
  | nil => intro _ j hj; simp at hj
  | cons a as ih =>
    intro h j hj
    have lt := hexValue_lt as
    obtain ⟨d, hd⟩ := Option.ne_none_iff_exists'.1 (h a (by simp))
    have d16 := hexDigit_lt hd
    cases j with
    | zero =>
      refine ⟨a, by simp, ?_⟩
      simp only [hexValue, hd, List.length_cons, Nat.add_sub_cancel, Nat.sub_zero, Option.getD_some, Option.some.injEq]
      rw [Nat.mul_comm, Nat.mul_add_div (by positivity), Nat.div_eq_of_lt lt]
      omega
    | succ j =>
      simp only [List.length_cons, Nat.add_lt_add_iff_right] at hj
      obtain ⟨c, hc, e⟩ := ih (fun c hc => h c (by simp [hc])) j hj
      refine ⟨c, by simpa using hc, ?_⟩
      have p : 16 ^ as.length = 16 ^ (as.length - 1 - j) * (16 * 16 ^ j) := by
        rw [← pow_succ', ← pow_add]; congr 1; omega
      rw [e]
      simp only [hexValue, List.length_cons, Option.some.injEq]
      rw [show as.length + 1 - 1 - (j + 1) = as.length - 1 - j by omega, p,
        show (hexDigit a).getD 0 * (16 ^ (as.length - 1 - j) * (16 * 16 ^ j)) + hexValue as =
          16 ^ (as.length - 1 - j) * (16 * ((hexDigit a).getD 0 * 16 ^ j)) + hexValue as by ring,
        Nat.mul_add_div (by positivity), Nat.mul_add_mod]

/-- Every text of 12 hexadecimal digits spells an address. -/
theorem spellsMac_of_digits {t : Text} (hl : t.length = 12) (h : ∀ c ∈ t, hexDigit c ≠ none) : ∃ m, SpellsMac t m := by
  refine ⟨BitVec.ofNat 48 (hexValue t), hl, fun j hj => ?_⟩
  obtain ⟨c, hc, e⟩ := hexValue_digit t h j (by omega)
  have lt := hexValue_lt t
  rw [hl] at lt
  refine ⟨c, hc, ?_⟩
  rw [e, nibble_toNat _ _ hj, hl, BitVec.toNat_ofNat, Nat.mod_eq_of_lt (a := hexValue t) (by omega)]

/-- Reading an address is spelling it. -/
theorem parseMac_eq_some_iff (t : Text) (m : BitVec 48) : parseMac t = some m ↔ SpellsMac t m := by
  refine ⟨fun h => ?_, parseMac_of_spells⟩
  have hl : t.length = 12 := by
    by_contra hl
    rw [parseMac_none (.inl hl)] at h
    cases h
  obtain ⟨m', hm'⟩ := spellsMac_of_digits hl (fun c hc hn => by rw [parseMac_none (.inr ⟨c, hc, hn⟩)] at h; cases h)
  rw [parseMac_of_spells hm'] at h
  cases h
  exact hm'

/-! ### Decimal numbers -/

theorem decDigit_eq (c : Char) : decDigit c = if c.isDigit then some (c.toNat - 48) else none := by
  have : c.isDigit = true ↔ 48 ≤ c.toNat ∧ c.toNat ≤ 57 := by simp [Char.isDigit, UInt32.le_iff_toNat_le]
  unfold decDigit
  simp only [Char.reduceToNat]
  by_cases h : c.isDigit = true
  · rw [if_pos h, if_pos (this.1 h)]
  · rw [if_neg h, if_neg (fun q => h (this.2 q))]

/-- Reading a decimal number gives what its digits spell. -/
theorem parseDecimal_eq (t : Text) : parseDecimal t = decimalValue t := by
  have gen : ∀ (t : Text) acc, parseDigits 10 decDigit acc t =
      if t.all Char.isDigit = true then some (t.foldl (fun n c => 10 * n + (c.toNat - 48)) acc) else none := by
    intro t
    induction t with
    | nil => intro acc; simp [parseDigits]
    | cons c cs ih =>
      intro acc
      unfold parseDigits
      rw [decDigit_eq]
      by_cases h : c.isDigit = true
      · rw [if_pos h]
        simp only [ih, List.all_cons, h, Bool.true_and, List.foldl_cons]
        rw [Nat.mul_comm acc 10]
      · rw [if_neg h]; simp [h]
  unfold decimalValue parseDecimal
  cases t with
  | nil => simp
  | cons c cs => simp [gen]

/-! ### Records -/

/-- The value taken of a key is an occurrence of it. -/
theorem recordValue_mem {kvs : List (Text × Text)} {key t : Text} (h : recordValue kvs key = some t) : (key, t) ∈ kvs := by
  have mem : ∀ v, v ∈ (kvs.filter (fun kv => kv.1 == key)).map Prod.snd → (key, v) ∈ kvs := by
    intro v hv
    simp only [List.mem_map, List.mem_filter, beq_iff_eq] at hv
    obtain ⟨⟨a, b⟩, ⟨h1, rfl⟩, rfl⟩ := hv
    exact h1
  unfold recordValue at h
  split at h
  · cases h
  · rename_i v e; cases h; exact mem _ (by rw [e]; simp)
  · exact mem _ (List.mem_of_getElem? h)

/-- A key without a value is missing. -/
theorem recordValue_none {kvs : List (Text × Text)} {key : Text} (h : recordValue kvs key = none) (t : Text) : (key, t) ∉ kvs := by
  intro ht
  have hm : t ∈ (kvs.filter (fun kv => kv.1 == key)).map Prod.snd := by
    simp only [List.mem_map, List.mem_filter, beq_iff_eq]
    exact ⟨(key, t), ⟨ht, rfl⟩, rfl⟩
  unfold recordValue at h
  split at h
  · rename_i e; rw [e] at hm; cases hm
  · cases h
  · rw [List.getElem?_eq_none_iff] at h
    have := Nat.mod_lt (Config.repeatedKeyChoice ((kvs.filter (fun kv => kv.1 == key)).map Prod.snd).length) (List.length_pos_of_mem hm)
    omega

/-- A key that a record holds once has one value. -/
theorem recordValue_unique {kvs : List (Text × Text)} {key a b : Text} (h : (kvs.map Prod.fst).Nodup) (ha : (key, a) ∈ kvs)
    (hb : (key, b) ∈ kvs) : a = b := by
  induction kvs with
  | nil => cases ha
  | cons x xs ih =>
    simp only [List.map_cons, List.nodup_cons, List.mem_map] at h
    simp only [List.mem_cons] at ha hb
    obtain rfl | ha := ha <;> obtain e | hb := hb
    · cases e; rfl
    · exact absurd ⟨_, hb, rfl⟩ h.1
    · subst e; exact absurd ⟨_, ha, rfl⟩ h.1
    · exact ih h.2 ha hb

/-- An integer key gives a value or is a ConfigurationError. -/
theorem recordInt_cases (kvs : List (Text × Text)) (key : String) :
    (∃ v, recordInt kvs key.toList = .ok v ∧ GivesInt kvs key v) ∨ recordInt kvs key.toList = .error .configurationError := by
  unfold recordInt
  cases e : recordValue kvs key.toList with
  | none => exact .inl ⟨_, rfl, .inl ⟨rfl, recordValue_none e⟩⟩
  | some t =>
    simp only
    cases hn : parseDecimal t with
    | none => exact .inr rfl
    | some v =>
      by_cases hlt : v < 2 ^ 32
      · simp only [if_pos hlt]
        refine .inl ⟨_, rfl, .inr ⟨t, recordValue_mem e, ?_⟩⟩
        rw [← parseDecimal_eq, hn, BitVec.toNat_ofNat, Nat.mod_eq_of_lt hlt]
      · exact .inr (if_neg hlt)

/-- A MAC key gives an address or is a MalformedHexError. -/
theorem recordMac_cases (kvs : List (Text × Text)) (key : String) :
    (∃ m, recordMac kvs key.toList = .ok m ∧ GivesMac kvs key m) ∨ recordMac kvs key.toList = .error .malformedHex := by
  unfold recordMac
  cases e : recordValue kvs key.toList with
  | none => exact .inr rfl
  | some t =>
    simp only
    cases hm : parseMac t with
    | none => exact .inr rfl
    | some m => exact .inl ⟨_, rfl, t, recordValue_mem e, (parseMac_eq_some_iff t m).1 hm⟩

/-- An integer key of a record without repeated keys is read as the value the record gives it. -/
theorem recordInt_of_gives {kvs : List (Text × Text)} {key : String} {v : Word} (hn : (kvs.map Prod.fst).Nodup)
    (h : GivesInt kvs key v) : recordInt kvs key.toList = .ok v := by
  unfold recordInt
  obtain ⟨rfl, hv⟩ | ⟨t, ht, hv⟩ := h <;> cases e : recordValue kvs key.toList with
  | none => first | rfl | exact absurd ht (recordValue_none e t)
  | some t' =>
    first
    | exact absurd (recordValue_mem e) (hv t')
    | rw [recordValue_unique hn (recordValue_mem e) ht]
      simp only
      rw [parseDecimal_eq, hv]
      simp only
      rw [if_pos v.isLt, BitVec.ofNat_toNat, BitVec.setWidth_eq]

/-- A MAC key of a record without repeated keys is read as the address the record gives it. -/
theorem recordMac_of_gives {kvs : List (Text × Text)} {key : String} {m : BitVec 48} (hn : (kvs.map Prod.fst).Nodup)
    (h : GivesMac kvs key m) : recordMac kvs key.toList = .ok m := by
  obtain ⟨t, ht, hm⟩ := h
  unfold recordMac
  cases e : recordValue kvs key.toList with
  | none => exact absurd ht (recordValue_none e t)
  | some t' =>
    rw [recordValue_unique hn (recordValue_mem e) ht]
    simp only
    rw [(parseMac_eq_some_iff t m).2 hm]

/-! ### Scripts -/

theorem wordOf_toNat (x : Word) : wordOf (x.toNat : Int) = .ok x := by
  have := x.isLt
  unfold wordOf
  rw [if_pos ⟨by omega, by omega⟩]
  congr 1
  apply BitVec.eq_of_toNat_eq
  simp

theorem wordOf_refused {v : Int} (h : v < 0 ∨ 2 ^ 32 ≤ v) : wordOf v = .error (.immediateOutOfRange v) := by
  unfold wordOf
  rw [if_neg (by omega)]

/-- Whole octets are read from the digits of their nibbles. -/
theorem parseOctets_of_digits : ∀ (os : List Byte) (hex : Text), hex.length = 2 * os.length →
    (∀ j o, os[j]? = some o → ∃ a b, hex[2 * j]? = some a ∧ hex[2 * j + 1]? = some b ∧
      hexDigit a = some (o.extractLsb' 4 4).toNat ∧ hexDigit b = some (o.extractLsb' 0 4).toNat) → parseOctets hex = some os := by
  intro os
  induction os with
  | nil =>
    intro hex h _
    rw [List.eq_nil_of_length_eq_zero (l := hex) (by simpa using h)]
    rfl
  | cons o os ih =>
    intro hex hl h
    match hex, hl with
    | a :: b :: rest, hl =>
      obtain ⟨a', b', ha, hb, h1, h2⟩ := h 0 o rfl
      cases ha
      cases hb
      have := ih rest (by simp only [List.length_cons] at hl; omega) (fun j o' hj => by
        obtain ⟨x, y, hx, hy, h3⟩ := h (j + 1) o' (by simpa using hj)
        exact ⟨x, y, by simpa [Nat.mul_add] using hx, by simpa [Nat.mul_add] using hy, h3⟩)
      unfold parseOctets
      rw [h1, h2, this]
      simp only
      congr 2
      have := o.isLt
      apply BitVec.eq_of_toNat_eq
      simp
      omega
    | [a], hl => simp only [List.length_cons, List.length_nil] at hl; omega
    | [], hl => simp at hl

/-- A text with an odd number of digits, or with a character that is none, is no octets. -/
theorem parseOctets_none : ∀ (n : Nat) (hex : Text), hex.length ≤ n → hex.length % 2 = 1 ∨ (∃ c ∈ hex, hexDigit c = none) →
    parseOctets hex = none := by
  intro n
  induction n with
  | zero =>
    intro hex hl h
    rw [List.eq_nil_of_length_eq_zero (l := hex) (by omega)] at h
    simp at h
  | succ n ih =>
    intro hex hl h
    match hex, hl, h with
    | [], _, h => simp at h
    | [a], _, _ => rfl
    | a :: b :: rest, hl, h =>
      unfold parseOctets
      cases ha : hexDigit a with
      | none => rfl
      | some x =>
        cases hb : hexDigit b with
        | none => rfl
        | some y =>
          simp only [List.length_cons] at hl h
          rw [ih rest (by omega)]
          obtain h | ⟨c, hc, hn⟩ := h
          · exact .inl (by omega)
          · refine .inr ⟨c, ?_, hn⟩
            simp only [List.mem_cons] at hc
            obtain rfl | rfl | hc := hc
            · rw [ha] at hn; cases hn
            · rw [hb] at hn; cases hn
            · exact hc

@[simp] theorem AgentLine.retarget_transaction (line : Nat → Nat) (t : Transaction) :
    (AgentLine.transaction t).retarget line = .transaction t := rfl

@[simp] theorem AgentLine.retarget_branch (line : Nat → Nat) (rd : Transaction) (m v : Word) (k : Nat) :
    (AgentLine.branch rd m v k).retarget line = .branch rd m v (line k) := rfl

/-- An expansion begins after the lines of the expansions before it. -/
theorem lineOf_eq_sum (es : List (List AgentLine)) (k : Nat) : lineOf es k = ((es.map List.length).take k).sum := by
  simp [lineOf, List.length_flatten, List.map_take]

/-- A script all of whose operations expand expands to them. -/
theorem expandAll_ok : ∀ (ops : List ScriptOp) (es : List (List AgentLine)) (n : Nat), es.length = ops.length →
    (∀ k o e, ops[k]? = some o → es[k]? = some e → expandOp (n + k) o = .ok e) → expandAll n ops = .ok es := by
  intro ops
  induction ops with
  | nil =>
    intro es n hl _
    rw [List.eq_nil_of_length_eq_zero (l := es) hl]
    rfl
  | cons o os ih =>
    intro es n hl h
    cases es with
    | nil => simp at hl
    | cons e es =>
      have rest := ih es (n + 1) (by simpa using hl) (fun k o' e' a b => by
        have := h (k + 1) o' e' (by simpa using a) (by simpa using b)
        rwa [show n + (k + 1) = n + 1 + k by omega] at this)
      unfold expandAll
      rw [show expandOp n o = .ok e from h 0 o e rfl rfl, rest]
      rfl

/-- A script with an operation that is refused is refused. -/
theorem expandAll_refused : ∀ (ops : List ScriptOp) (n k : Nat) (o : ScriptOp) (e : Refusal), ops[k]? = some o →
    expandOp (n + k) o = .error e → ∃ e', expandAll n ops = .error e' := by
  intro ops
  induction ops with
  | nil => intro n k o e h; simp at h
  | cons a os ih =>
    intro n k o e h he
    unfold expandAll
    cases ha : expandOp n a with
    | error e' => exact ⟨e', rfl⟩
    | ok x =>
      cases k with
      | zero => cases h; rw [Nat.add_zero, ha] at he; cases he
      | succ k =>
        obtain ⟨e', h'⟩ := ih (n + 1) k o e (by simpa using h) (by rwa [show n + 1 + k = n + (k + 1) by omega])
        rw [h']
        exact ⟨e', rfl⟩

end Sys2Proof.Machine
end

