-- ==== Sys2Proof/Laws/PerInstr.lean ====
section
/-! SUPPORT. Statements made per instruction. The family `RoundTrip`: decoding the word of a well-formed operation gives the
operation back. -/

namespace Sys2Proof.Laws.RoundTrip

/-- The word of `i` decodes to `i`. -/
def Statement (i : Instr) : Prop := i.wellFormed = true → decode (encode i) = i

theorem rdCtrl : Statement .rdCtrl := fun _ => decode_register false .ctrl 0#32
theorem wrCtrl (x : Word) : Statement (.wrCtrl x) := fun _ => decode_register true .ctrl x
theorem rdStatus : Statement .rdStatus := fun _ => decode_register false .status 0#32
theorem wrStatus (x : Word) : Statement (.wrStatus x) := fun _ => decode_register true .status x
theorem rdLineRateGbps : Statement .rdLineRateGbps := fun _ => decode_register false .lineRateGbps 0#32
theorem wrLineRateGbps (x : Word) : Statement (.wrLineRateGbps x) := fun _ => decode_register true .lineRateGbps x
theorem rdCaptureMs : Statement .rdCaptureMs := fun _ => decode_register false .captureMs 0#32
theorem wrCaptureMs (x : Word) : Statement (.wrCaptureMs x) := fun _ => decode_register true .captureMs x
theorem rdMinIfgBytes : Statement .rdMinIfgBytes := fun _ => decode_register false .minIfgBytes 0#32
theorem wrMinIfgBytes (x : Word) : Statement (.wrMinIfgBytes x) := fun _ => decode_register true .minIfgBytes x
theorem rdDestMacHi : Statement .rdDestMacHi := fun _ => decode_register false .destMacHi 0#32
theorem wrDestMacHi (x : Word) : Statement (.wrDestMacHi x) := fun _ => decode_register true .destMacHi x
theorem rdDestMacLo : Statement .rdDestMacLo := fun _ => decode_register false .destMacLo 0#32
theorem wrDestMacLo (x : Word) : Statement (.wrDestMacLo x) := fun _ => decode_register true .destMacLo x
theorem rdSrcMacHi : Statement .rdSrcMacHi := fun _ => decode_register false .srcMacHi 0#32
theorem wrSrcMacHi (x : Word) : Statement (.wrSrcMacHi x) := fun _ => decode_register true .srcMacHi x
theorem rdSrcMacLo : Statement .rdSrcMacLo := fun _ => decode_register false .srcMacLo 0#32
theorem wrSrcMacLo (x : Word) : Statement (.wrSrcMacLo x) := fun _ => decode_register true .srcMacLo x
theorem rdMaxFrameBytes : Statement .rdMaxFrameBytes := fun _ => decode_register false .maxFrameBytes 0#32
theorem wrMaxFrameBytes (x : Word) : Statement (.wrMaxFrameBytes x) := fun _ => decode_register true .maxFrameBytes x
theorem rdFramesPerBurst : Statement .rdFramesPerBurst := fun _ => decode_register false .framesPerBurst 0#32
theorem wrFramesPerBurst (x : Word) : Statement (.wrFramesPerBurst x) := fun _ => decode_register true .framesPerBurst x
theorem rdBurstPeriodUs : Statement .rdBurstPeriodUs := fun _ => decode_register false .burstPeriodUs 0#32
theorem wrBurstPeriodUs (x : Word) : Statement (.wrBurstPeriodUs x) := fun _ => decode_register true .burstPeriodUs x
theorem rdTotalBurstsLo : Statement .rdTotalBurstsLo := fun _ => decode_register false .totalBurstsLo 0#32
theorem wrTotalBurstsLo (x : Word) : Statement (.wrTotalBurstsLo x) := fun _ => decode_register true .totalBurstsLo x
theorem rdTotalBurstsHi : Statement .rdTotalBurstsHi := fun _ => decode_register false .totalBurstsHi 0#32
theorem wrTotalBurstsHi (x : Word) : Statement (.wrTotalBurstsHi x) := fun _ => decode_register true .totalBurstsHi x
theorem rdIfgWords : Statement .rdIfgWords := fun _ => decode_register false .ifgWords 0#32
theorem wrIfgWords (x : Word) : Statement (.wrIfgWords x) := fun _ => decode_register true .ifgWords x
theorem rdEobWordsLo : Statement .rdEobWordsLo := fun _ => decode_register false .eobWordsLo 0#32
theorem wrEobWordsLo (x : Word) : Statement (.wrEobWordsLo x) := fun _ => decode_register true .eobWordsLo x
theorem rdEobWordsHi : Statement .rdEobWordsHi := fun _ => decode_register false .eobWordsHi 0#32
theorem wrEobWordsHi (x : Word) : Statement (.wrEobWordsHi x) := fun _ => decode_register true .eobWordsHi x
theorem rdFramesSentLo : Statement .rdFramesSentLo := fun _ => decode_register false .framesSentLo 0#32
theorem wrFramesSentLo (x : Word) : Statement (.wrFramesSentLo x) := fun _ => decode_register true .framesSentLo x
theorem rdFramesSentHi : Statement .rdFramesSentHi := fun _ => decode_register false .framesSentHi 0#32
theorem wrFramesSentHi (x : Word) : Statement (.wrFramesSentHi x) := fun _ => decode_register true .framesSentHi x
theorem rdLastFcs : Statement .rdLastFcs := fun _ => decode_register false .lastFcs 0#32
theorem wrLastFcs (x : Word) : Statement (.wrLastFcs x) := fun _ => decode_register true .lastFcs x
theorem rdCrcInit : Statement .rdCrcInit := fun _ => decode_register false .crcInit 0#32
theorem wrCrcInit (x : Word) : Statement (.wrCrcInit x) := fun _ => decode_register true .crcInit x
theorem rdCrcData : Statement .rdCrcData := fun _ => decode_register false .crcData 0#32
theorem wrCrcData (x : Word) : Statement (.wrCrcData x) := fun _ => decode_register true .crcData x
theorem rdCrcResult : Statement .rdCrcResult := fun _ => decode_register false .crcResult 0#32
theorem wrCrcResult (x : Word) : Statement (.wrCrcResult x) := fun _ => decode_register true .crcResult x
theorem rdRsvd (a : Offset) : Statement (.rdRsvd a) := fun h => decode_reserved false a 0#32 h
theorem wrRsvd (a : Offset) (x : Word) : Statement (.wrRsvd a x) := fun h => decode_reserved true a x h
theorem misaligned (we : Bool) (a : Offset) (x : Word) : Statement (.misaligned we a x) := fun h =>
  decode_misaligned we a x (by simpa [Instr.wellFormed] using h)

end Sys2Proof.Laws.RoundTrip
end

