-- ==== Sys2Proof/Laws/Plan.lean ====
section
/-! SUPPORT. The plan registers hold the numbers of the plan: no value of it is cut where START accepts it. -/

namespace Sys2Proof.Machine

/-- `B` fits in 42 bits. -/
theorem planBursts_lt (c : TrafficProfile) : planBursts c < 2 ^ 42 := by
  have hc := c.captureMs.isLt
  have hd : planBursts c ≤ c.captureMs.toNat * 1000 := Nat.div_le_self _ _
  omega

/-- `TOTAL_BURSTS` holds `B`. -/
theorem planRegs_totalBursts (c : TrafficProfile) : (planRegs c).totalBursts.toNat = planBursts c := by
  have := planBursts_lt c
  simp [planRegs]; omega

/-- `IFG_WORDS` holds `IFGW`. -/
theorem planRegs_ifgWords (c : TrafficProfile) : (planRegs c).ifgWords.toNat = planIfgWords c := by
  have := c.minIfgBytes.isLt
  simp [planRegs, planIfgWords]; omega

/-- `EOB_WORDS` holds `EOBW` where the range check passes. -/
theorem planRegs_eobWords (c : TrafficProfile) (h : rangeError c = false) : (planRegs c).eobWords.toNat = planEobWords c := by
  have := of_decide_eq_false h
  simp [planRegs]; omega

/-- A run that builds a frame has `S ≥ 26` (42_burst_plan R94). -/
theorem frameBytes_of_sizeOk {c : TrafficProfile} (h : sizeError c = false) (hb : 0 < planBursts c)
    (hf : 0 < c.framesPerBurst.toNat) : 26 ≤ c.frameBytes := by
  have := of_decide_eq_false h
  unfold minFrame at this
  omega

end Sys2Proof.Machine
end

