-- ==== Sys2Proof/Laws/Step.lean ====
section
/-! SUPPORT. Everything a step can do, said once: its effect on the block is one of six, and beside it the step changes only the
host agent and the events to come. -/

namespace Sys2Proof.Machine

/-- A run, one step at a time. -/
theorem run_next (M : Host.Core) (n : Nat) {s u : M.State} (h : M.step s = .next u) : M.run (n + 1) s = M.run n u := by
  simp [Host.Core.run, h]

/-- A step whose event is a sequencer's turn. -/
theorem step_turn (s : State) (ready : Bool) (es : List Event) :
    step (s.withSchedule (.sequencerTurn ready :: es)) = .next ((s.turn ready).withSchedule es) := by
  show Host.Outcome.next (((s.withSchedule _).withSchedule es).turn ready) = _
  rw [State.turn_withSchedule, State.turn_withSchedule]
  rfl

/-- Some transaction that a step from `s` applies is `t`: it is the next event, or the line that the host's turn runs. -/
def State.brings (s : State) (t : Transaction) : Prop :=
  ∃ es, s.schedule = .transaction t :: es ∨
    s.schedule = .hostTurn :: es ∧
      (s.agent.program[s.agent.pc]? = some (.transaction t) ∨
        ∃ m v k, s.agent.program[s.agent.pc]? = some (.branch t m v k))

/-- What a step does to the block. -/
inductive Effect (s : State) : State → Prop where
  /-- Nothing: no event, a read, an ignored write, a host tool, a turn that is none. -/
  | none : Effect s s
  /-- A configuration write, while idle. -/
  | cfg (c : TrafficProfile) : s.busy = false → Effect s (s.withCfg c)
  /-- A write of the CRC port. -/
  | hcrc (v : Word) : Effect s (s.withHcrc v)
  /-- A CTRL write. -/
  | ctrl (x : Word) : s.brings (busWrite 0x00#8 x) → Effect s (s.writeCtrl x)
  /-- A sequencer turn. -/
  | turn (ready : Bool) (es : List Event) : s.schedule = .sequencerTurn ready :: es → Effect s (s.turn ready)
  /-- A reset. -/
  | reset (es : List Event) : s.schedule = .reset :: es → Effect s s.resetBlock

/-- A word that decodes to a CTRL write is that write's word. -/
theorem decode_eq_wrCtrl {t : Transaction} {x : Word} (h : decode t = .wrCtrl x) : t = busWrite 0x00#8 x := by
  unfold decode at h
  split at h
  · split at h
    · rename_i r hr
      have ho := RegName.ofOffset_some _ _ hr
      cases r <;> cases hw : t.we <;> simp [hw, Instr.readOf, Instr.writeOf] at h
      · rw [← h, ← t.make_fields, hw, ← ho]; simp [busWrite, RegName.offset]
    · cases hw : t.we <;> simp [hw] at h
  · cases h

/-- A transaction that completes, seen as an effect: beside it only the record of reads changes. -/
theorem applyTransaction_effect {t : Transaction} {s s' : State} (h : applyTransaction t s = .next s') :
    (∃ rs, s' = s.withAgent { s.agent with reads := rs }) ∨
    (s.busy = false ∧ ∃ c, s' = s.withCfg c) ∨ (∃ v, s' = s.withHcrc v) ∨
    (∃ x, t = busWrite 0x00#8 x ∧ s' = s.writeCtrl x) := by
  obtain ⟨v, h⟩ | h | ⟨hb, c, h⟩ | ⟨_, v, h⟩ | ⟨x, hi, h⟩ := exec_cases h
  · exact .inl ⟨_, h⟩
  · exact .inl ⟨s.agent.reads, h⟩
  · exact .inr (.inl ⟨hb, c, h⟩)
  · exact .inr (.inr (.inl ⟨v, h⟩))
  · exact .inr (.inr (.inr ⟨x, decode_eq_wrCtrl hi, h⟩))

/-- The agent part of the line after a branch. -/
theorem State.afterBranch_agent (s : State) (m v : Word) (k : Nat) : ∃ h, s.afterBranch m v k = s.withAgent h := by
  unfold State.afterBranch State.goto
  split
  · split <;> exact ⟨_, rfl⟩
  · exact ⟨_, rfl⟩

/-- Everything a step can do. -/
theorem step_effect {s s' : State} (h : step s = .next s') :
    ∃ u a es, Effect s u ∧ s' = (u.withAgent a).withSchedule es := by
  unfold step State.takeEvent at h
  cases hs : s.schedule with
  | nil => rw [hs] at h; cases h; exact ⟨s, s.agent, s.schedule, .none, rfl⟩
  | cons e es =>
    rw [hs] at h
    have transact : ∀ (t : Transaction) (g a : HostAgent) (u : State), s.brings t →
        applyTransaction t ((s.withSchedule es).withAgent g) = .next u →
        ∃ u' a' es', Effect s u' ∧ u.withAgent a = (u'.withAgent a').withSchedule es' := by
      intro t g a u hb hu
      obtain ⟨rs, hu⟩ | ⟨hi, c, hu⟩ | ⟨v, hu⟩ | ⟨x, ht, hu⟩ := applyTransaction_effect hu
      · exact ⟨s, a, es, .none, by rw [hu]; rfl⟩
      · exact ⟨_, a, es, .cfg c hi, by rw [hu]; rfl⟩
      · exact ⟨_, a, es, .hcrc v, by rw [hu]; rfl⟩
      · exact ⟨_, a, es, .ctrl x (ht ▸ hb), by rw [hu, State.writeCtrl_withAgent, State.writeCtrl_withSchedule]; rfl⟩
    cases e with
    | transaction t =>
      obtain ⟨u, a, es', hu, e⟩ := transact t s.agent s'.agent s' ⟨es, .inl hs⟩ h
      exact ⟨u, a, es', hu, e⟩
    | sequencerTurn ready =>
      cases h
      exact ⟨_, (s.turn ready).agent, es, .turn ready es hs, by rw [State.turn_withSchedule]; rfl⟩
    | reset => cases h; exact ⟨_, s.agent, es, .reset es hs, rfl⟩
    | script ls =>
      simp only [applyEvent, State.takeScript] at h
      split at h
      · cases h; exact ⟨s, _, es, .none, rfl⟩
      · cases h
    | record r =>
      simp only [applyEvent, State.takeScript] at h
      split at h
      · cases h; exact ⟨s, _, es, .none, rfl⟩
      · cases h
    | hostTurn =>
      simp only [applyEvent, runAgent] at h
      split at h
      · cases h; exact ⟨s, s.agent, es, .none, rfl⟩
      · rename_i t ht
        obtain ⟨u, a, es', hu, e⟩ := transact t _ s'.agent s' ⟨es, .inr ⟨hs, .inl ht⟩⟩ h
        exact ⟨u, a, es', hu, e⟩
      · rename_i t m v k ht
        split at h
        · rename_i s1 h1
          obtain ⟨g, hg⟩ := s1.afterBranch_agent m v k
          cases h
          obtain ⟨u, a, es', hu, e⟩ := transact t s.agent g s1 ⟨es, .inr ⟨hs, .inr ⟨m, v, k, ht⟩⟩⟩ h1
          exact ⟨u, a, es', hu, by rw [hg, e]⟩
        · cases h
        · cases h

end Sys2Proof.Machine
end

