-- ==== Sys2Proof/Machine/ScriptText.lean ====
section
/-! DEFINITION. The text of a host script (30_encoding R66, R67): lines of text to the operations they spell. A text that spells no
script is no script: nothing is assembled from it and no event of the machine comes of it. What R66 leaves to an assembler (spaces,
commas, comments in quotes, labels, the case of digits) is log 15, and the operands of `BNE` are log 23. -/

namespace Sys2Proof.Machine

/-! ### Numbers and names -/

/-- A decimal or `0x`-hexadecimal number (30_encoding R66). -/
def parseNumber : Text → Option Nat
  | '0' :: 'x' :: h => if h.isEmpty then none else parseDigits 16 hexDigit 0 h
  | t => parseDecimal t

/-- A number with or without a minus sign. The sign is read so that a value below 0 is refused as out of range and not as no number
(30_encoding R66, log 15). -/
def parseInt : Text → Option Int
  | '-' :: t => (parseNumber t).map (fun n => - (n : Int))
  | t => (parseNumber t).map (fun n => (n : Int))

/-- The names of the register map (10_state R16). -/
def RegName.text : RegName → Text
  | .ctrl => "CTRL".toList
  | .status => "STATUS".toList
  | .lineRateGbps => "LINE_RATE_GBPS".toList
  | .captureMs => "CAPTURE_MS".toList
  | .minIfgBytes => "MIN_IFG_BYTES".toList
  | .destMacHi => "DEST_MAC_HI".toList
  | .destMacLo => "DEST_MAC_LO".toList
  | .srcMacHi => "SRC_MAC_HI".toList
  | .srcMacLo => "SRC_MAC_LO".toList
  | .maxFrameBytes => "MAX_FRAME_BYTES".toList
  | .framesPerBurst => "FRAMES_PER_BURST".toList
  | .burstPeriodUs => "BURST_PERIOD_US".toList
  | .totalBurstsLo => "TOTAL_BURSTS_LO".toList
  | .totalBurstsHi => "TOTAL_BURSTS_HI".toList
  | .ifgWords => "IFG_WORDS".toList
  | .eobWordsLo => "EOB_WORDS_LO".toList
  | .eobWordsHi => "EOB_WORDS_HI".toList
  | .framesSentLo => "FRAMES_SENT_LO".toList
  | .framesSentHi => "FRAMES_SENT_HI".toList
  | .lastFcs => "LAST_FCS".toList
  | .crcInit => "CRC_INIT".toList
  | .crcData => "CRC_DATA".toList
  | .crcResult => "CRC_RESULT".toList

/-- The register of a name. -/
def readRegName (t : Text) : Option RegName := RegName.all.find? (fun r => RegName.text r == t)

/-- The names that `RD64` takes. -/
def PairName.text : PairName → Text
  | .destMac => "DEST_MAC".toList
  | .srcMac => "SRC_MAC".toList
  | .totalBursts => "TOTAL_BURSTS".toList
  | .eobWords => "EOB_WORDS".toList
  | .framesSent => "FRAMES_SENT".toList

/-- The register pair of a name. -/
def readPairName (t : Text) : Option PairName :=
  [PairName.destMac, .srcMac, .totalBursts, .eobWords, .framesSent].find? (fun p => p.text == t)

/-! ### Lines -/

/-- What a script line is made of. -/
inductive Token where
  | word (t : Text)
  | comma
  | quoted (t : Text)
  deriving DecidableEq, Repr

/-- The word read so far, kept in reverse, as a token. -/
def flushWord (cur : Text) (rest : List Token) : List Token := if cur.isEmpty then rest else .word cur.reverse :: rest

/-- The tokens of a line, up to its comment (30_encoding R66: `;` starts one). None for an unfinished quotation. DESIGN CHOICE: the
spec gives no way to write a quotation mark (0x22) inside the text of `CRCSTR`, so there is no escape, and the next 0x22 ends the
text (log 15). -/
def lexLine : Text → Text → Option Text → Option (List Token)
  | [], cur, none => some (flushWord cur [])
  | [], _, some _ => none
  | c :: cs, cur, some q =>
    if c.toNat = 0x22 then (lexLine cs [] none).map (Token.quoted q.reverse :: ·) else lexLine cs cur (some (c :: q))
  | c :: cs, cur, none =>
    if c = ';' then some (flushWord cur [])
    else if c.toNat = 0x22 then (lexLine cs [] (some [])).map (flushWord cur)
    else if c = ',' then (lexLine cs [] none).map (fun ts => flushWord cur (.comma :: ts))
    else if c = ' ' ∨ c = '\t' then (lexLine cs [] none).map (flushWord cur)
    else lexLine cs (c :: cur) none

/-- A register name or `@<off>`, an offset of 8 bits (30_encoding R66, R57). -/
def readTarget : Text → Option ScriptTarget
  | '@' :: off =>
    match parseNumber off with
    | some v => if v < 256 then some (.offset (BitVec.ofNat 8 v)) else none
    | none => none
  | t => (readRegName t).map .register

/-- The ASCII codes of a text (30_encoding R67: `CRCSTR`). -/
def asciiCodes (t : Text) : Option (List Byte) :=
  if t.all (fun c => decide (c.toNat < 128)) then some (t.map (fun c => BitVec.ofNat 8 c.toNat)) else none

/-- The operation of a line without its label; `labels` says at which operation a label stands (30_encoding R66, R67). -/
def readOp (labels : Text → Option Nat) : List Token → Option ScriptOp
  | .word k :: args =>
    if k = "RD".toList then
      match args with
      | [.word r] => (readTarget r).map .rd
      | _ => none
    else if k = "WR".toList then
      match args with
      | [.word r, .comma, .word v] => do
        let t ← readTarget r
        let x ← parseInt v
        some (.wr t x)
      | _ => none
    else if k = "BNE".toList then
      match args with
      | [.word r, .comma, .word m, .comma, .word v, .comma, .word l] => do
        let reg ← readRegName r
        let mask ← parseInt m
        let value ← parseInt v
        let label ← labels l
        some (.bne reg mask value label)
      | _ => none
    else if k = "SETMAC".toList then
      match args with
      | [.word w, .comma, .word hex] =>
        if w = "DEST".toList then some (.setMac .dest hex)
        else if w = "SRC".toList then some (.setMac .src hex)
        else none
      | _ => none
    else if k = "START".toList then
      match args with
      | [] => some (.start false)
      | [.word p] => if p = "PAD".toList then some (.start true) else none
      | _ => none
    else if k = "STOP".toList then
      if args.isEmpty then some .stop else none
    else if k = "WAITDONE".toList then
      if args.isEmpty then some .waitDone else none
    else if k = "CRCRESET".toList then
      if args.isEmpty then some .crcReset else none
    else if k = "CRCHEX".toList then
      match args with
      | [] => some (.crcHex [])
      | [.word hex] => some (.crcHex hex)
      | _ => none
    else if k = "CRCSTR".toList then
      match args with
      | [.quoted str] => (asciiCodes str).map .crcStr
      | _ => none
    else if k = "RD64".toList then
      match args with
      | [.word w] => (readPairName w).map .rd64
      | _ => none
    else none
  | _ => none

/-- A line's label, if it has one, and the tokens of its operation, none where it has no operation. -/
structure ScriptLine where
  label : Option Text
  op    : List Token
  deriving DecidableEq, Repr

/-- The label `name:` at the head of a line, and the rest (30_encoding R66). -/
def splitLabel : List Token → ScriptLine
  | .word t :: rest => if t.getLast? = some ':' then ⟨some t.dropLast, rest⟩ else ⟨none, .word t :: rest⟩
  | ts => ⟨none, ts⟩

/-- The lines of a text. -/
def readLines : List Text → Option (List ScriptLine)
  | [] => some []
  | l :: ls => do
    let ts ← lexLine l [] none
    let rest ← readLines ls
    some (splitLabel ts :: rest)

/-- Where each label stands: the index of the next operation, counting from `n`. -/
def labelTable : Nat → List ScriptLine → List (Text × Nat)
  | _, [] => []
  | n, l :: ls => l.label.toList.map (fun t => (t, n)) ++ labelTable (if l.op.isEmpty then n else n + 1) ls

/-- The operations of the lines, one a line at most (30_encoding R66). -/
def readOps (labels : Text → Option Nat) : List ScriptLine → Option (List ScriptOp)
  | [] => some []
  | l :: ls => do
    let rest ← readOps labels ls
    if l.op.isEmpty then some rest
    else do
      let o ← readOp labels l.op
      some (o :: rest)

/-- The script that a text spells; none for a text with a line outside 30_encoding R66 and R67, or with a label that stands at two
lines or at none where a branch names it (log 15). -/
def readScript (text : List Text) : Option (List ScriptOp) := do
  let ls ← readLines text
  let table := labelTable 0 ls
  if (table.map Prod.fst).Nodup then readOps (fun l => table.lookup l) ls else none

end Sys2Proof.Machine
end

