-- ==== Sys2Proof/Tests/Slice0.lean ====
section
/-! SUPPORT. Tests of this model. Expected values are the spec's own (95_test_vectors) or worked out by hand from the rule named;
each test is one operation or one step. The witnesses show a state and operands that meet the hypotheses of each obligation. -/

namespace Sys2Proof.Machine.Tests

/-! ### Small states -/

/-- A profile with the MACs of 95_test_vectors (`MACS1`): `R C G S F P`. -/
def profile (r c g sz f p : Nat) : TrafficProfile :=
  { lineRateGbps := BitVec.ofNat 32 r, captureMs := BitVec.ofNat 32 c, minIfgBytes := BitVec.ofNat 32 g,
    destMacHi := 0xAABB#16, destMacLo := 0xCCDDEEFF#32, srcMacHi := 0x1122#16, srcMacLo := 0x33445566#32,
    maxFrameBytes := BitVec.ofNat 32 sz, framesPerBurst := BitVec.ofNat 32 f, burstPeriodUs := BitVec.ofNat 32 p }

/-- An idle block with a profile. -/
def idleWith (c : TrafficProfile) : State := State.reset.withCfg c

/-- The profile of program P4. -/
def p4 : TrafficProfile := profile 1 1 4 26 3 1000

/-- A run of program P4's profile, at a position. -/
def runningAt (phase : Phase) (frame byte fill : Nat) : State :=
  ((idleWith p4).withPlan (planRegs p4)).withSeq
    { phase := phase, burst := 0#64, frame := BitVec.ofNat 32 frame, byte := BitVec.ofNat 32 byte, fill := BitVec.ofNat 64 fill,
      fcs := crcFold crcInitValue (bodyPrefix Params.default p4 (min byte 22)), stopReq := false }

/-- The same with one frame sent. -/
def sentOne (s : State) : State := (s.withFramesSent 1#64).withLastFcs (frameFcs Params.default p4)

/-- The same with three frames sent. -/
def sentThree (s : State) : State := (s.withFramesSent 3#64).withLastFcs (frameFcs Params.default p4)

/-- The same with a stop pending. -/
def stopping (s : State) : State := s.withSeq { s.seq with stopReq := true }

def atBurstTop : State := runningAt .burstTop 0 0 0
def atFrameTop : State := runningAt .frameTop 0 0 0
def atFrame (byte : Nat) : State := runningAt .frame 0 byte 0
def atIfg (fill : Nat) : State := sentOne (runningAt .ifg 0 26 fill)
def atEob (fill : Nat) : State := sentThree (runningAt .eob 3 26 fill)

/-- The end of P4's run without a stop: all bursts drained. -/
def atEnd : State :=
  (sentThree (runningAt .burstTop 3 26 0)).withSeq { (runningAt .burstTop 3 26 0).seq with burst := 1#64 }

/-- The value the host read last. -/
def lastRead : Answer → Option Word
  | .next s => s.agent.reads.getLast?
  | .fault _ => none
  | .refused _ => none

/-- A field of the next state. -/
def field {α : Type} (f : State → α) : Answer → Option α
  | .next s => some (f s)
  | .fault _ => none
  | .refused _ => none

/-- The refusal of a text tool. -/
def refusal {α : Type} : Except Refusal α → Option Refusal
  | .ok _ => none
  | .error e => some e

/-- The result of a text tool. -/
def result {α : Type} : Except Refusal α → Option α
  | .ok a => some a
  | .error _ => none

/-! ### Well-formedness: ill-formed terms are refused (30_encoding R59, R61, R62) -/

theorem test_rsvd_read_at_defined_register_is_ill_formed : Instr.wellFormed (.rdRsvd 0x58#8) = false := by decide
theorem test_rsvd_read_misaligned_is_ill_formed : Instr.wellFormed (.rdRsvd 0x5D#8) = false := by decide
theorem test_rsvd_write_at_defined_register_is_ill_formed : Instr.wellFormed (.wrRsvd 0x00#8 1#32) = false := by decide
theorem test_rsvd_write_misaligned_is_ill_formed : Instr.wellFormed (.wrRsvd 0xFE#8 1#32) = false := by decide
theorem test_misaligned_at_aligned_offset_is_ill_formed : Instr.wellFormed (.misaligned true 0x5C#8 1#32) = false := by decide

/-! ### Decoding: words written out from 30_encoding R57 and R61 (WE in bit 40, ADDR in bits 39:32, WDATA in bits 31:0) -/

theorem test_decode_reads_1 :
    decode 0x00000000000#41 = .rdCtrl ∧
    decode 0x00400000000#41 = .rdStatus ∧
    decode 0x00800000000#41 = .rdLineRateGbps ∧
    decode 0x00C00000000#41 = .rdCaptureMs ∧
    decode 0x01000000000#41 = .rdMinIfgBytes ∧
    decode 0x01400000000#41 = .rdDestMacHi ∧
    decode 0x01800000000#41 = .rdDestMacLo ∧
    decode 0x01C00000000#41 = .rdSrcMacHi := by
  decide

theorem test_decode_writes_1 :
    decode 0x10089ABCDEF#41 = .wrCtrl 0x89ABCDEF#32 ∧
    decode 0x10489ABCDEF#41 = .wrStatus 0x89ABCDEF#32 ∧
    decode 0x10889ABCDEF#41 = .wrLineRateGbps 0x89ABCDEF#32 ∧
    decode 0x10C89ABCDEF#41 = .wrCaptureMs 0x89ABCDEF#32 ∧
    decode 0x11089ABCDEF#41 = .wrMinIfgBytes 0x89ABCDEF#32 ∧
    decode 0x11489ABCDEF#41 = .wrDestMacHi 0x89ABCDEF#32 ∧
    decode 0x11889ABCDEF#41 = .wrDestMacLo 0x89ABCDEF#32 ∧
    decode 0x11C89ABCDEF#41 = .wrSrcMacHi 0x89ABCDEF#32 := by
  decide

theorem test_decode_reads_2 :
    decode 0x02000000000#41 = .rdSrcMacLo ∧
    decode 0x02400000000#41 = .rdMaxFrameBytes ∧
    decode 0x02800000000#41 = .rdFramesPerBurst ∧
    decode 0x02C00000000#41 = .rdBurstPeriodUs ∧
    decode 0x03000000000#41 = .rdTotalBurstsLo ∧
    decode 0x03400000000#41 = .rdTotalBurstsHi ∧
    decode 0x03800000000#41 = .rdIfgWords ∧
    decode 0x03C00000000#41 = .rdEobWordsLo := by
  decide

theorem test_decode_writes_2 :
    decode 0x12089ABCDEF#41 = .wrSrcMacLo 0x89ABCDEF#32 ∧
    decode 0x12489ABCDEF#41 = .wrMaxFrameBytes 0x89ABCDEF#32 ∧
    decode 0x12889ABCDEF#41 = .wrFramesPerBurst 0x89ABCDEF#32 ∧
    decode 0x12C89ABCDEF#41 = .wrBurstPeriodUs 0x89ABCDEF#32 ∧
    decode 0x13089ABCDEF#41 = .wrTotalBurstsLo 0x89ABCDEF#32 ∧
    decode 0x13489ABCDEF#41 = .wrTotalBurstsHi 0x89ABCDEF#32 ∧
    decode 0x13889ABCDEF#41 = .wrIfgWords 0x89ABCDEF#32 ∧
    decode 0x13C89ABCDEF#41 = .wrEobWordsLo 0x89ABCDEF#32 := by
  decide

theorem test_decode_reads_3 :
    decode 0x04000000000#41 = .rdEobWordsHi ∧
    decode 0x04400000000#41 = .rdFramesSentLo ∧
    decode 0x04800000000#41 = .rdFramesSentHi ∧
    decode 0x04C00000000#41 = .rdLastFcs ∧
    decode 0x05000000000#41 = .rdCrcInit ∧
    decode 0x05400000000#41 = .rdCrcData ∧
    decode 0x05800000000#41 = .rdCrcResult := by
  decide

theorem test_decode_writes_3 :
    decode 0x14089ABCDEF#41 = .wrEobWordsHi 0x89ABCDEF#32 ∧
    decode 0x14489ABCDEF#41 = .wrFramesSentLo 0x89ABCDEF#32 ∧
    decode 0x14889ABCDEF#41 = .wrFramesSentHi 0x89ABCDEF#32 ∧
    decode 0x14C89ABCDEF#41 = .wrLastFcs 0x89ABCDEF#32 ∧
    decode 0x15089ABCDEF#41 = .wrCrcInit 0x89ABCDEF#32 ∧
    decode 0x15489ABCDEF#41 = .wrCrcData 0x89ABCDEF#32 ∧
    decode 0x15889ABCDEF#41 = .wrCrcResult 0x89ABCDEF#32 := by
  decide

theorem test_decode_reserved :
    decode 0x05C00000000#41 = .rdRsvd 0x5C#8 ∧ decode 0x060FFFFFFFF#41 = .rdRsvd 0x60#8 ∧ decode 0x0FC00000000#41 = .rdRsvd 0xFC#8 ∧
    decode 0x15C12345678#41 = .wrRsvd 0x5C#8 0x12345678#32 ∧ decode 0x1FC00000001#41 = .wrRsvd 0xFC#8 1#32 := by
  decide

theorem test_decode_misaligned :
    decode 0x00100000000#41 = .misaligned false 1#8 0#32 ∧ decode 0x10600000000#41 = .misaligned true 6#8 0#32 ∧
    decode 0x15F00000007#41 = .misaligned true 0x5F#8 7#32 := by
  decide

/-- Bit by bit: `1 00001000 0…01010` is `WR LINE_RATE_GBPS, 10` (program P2, row 1). -/
theorem test_decode_bits :
    decode (1#1 ++ 0b00001000#8 ++ 0b00000000000000000000000000001010#32) = .wrLineRateGbps 10#32 := by
  decide

/-- The read ignores WDATA (30_encoding R58). -/
theorem test_decode_read_ignores_wdata : decode 0x004FFFFFFFF#41 = .rdStatus := by decide

theorem test_decode_table_word :
    decodeTableWord 48 0x1080000000A = some (.wrLineRateGbps 10#32) ∧ decodeTableWord 48 0x20000000000 = none := by
  decide

/-- The very next step runs the word that is placed: `WR CRC_RESULT` changes nothing, `RD STATUS` after reset reads 0. -/
theorem test_fetch_word : lastRead (step (State.reset.withFetchWord 48 0x00400000000)) = some 0#32 := by decide

/-! ### Reads -/

theorem test_ctrl_reads_pending_stop : lastRead (exec .rdCtrl (stopping atFrameTop)) = some 0x2#32 := by decide
theorem test_ctrl_reads_pad : lastRead (exec .rdCtrl (atFrameTop.withPad true)) = some 0x4#32 := by decide
theorem test_status_reads_busy : lastRead (exec .rdStatus atFrameTop) = some 0x1#32 := by decide
theorem test_status_reads_cancelled :
    lastRead (exec .rdStatus (State.reset.withStatus ⟨true, true, .none⟩)) = some 0x6#32 := by decide

/-- Each configuration register reads its own value (44_register_ops R117 to R135). -/
theorem test_configuration_reads :
    lastRead (exec .rdLineRateGbps (idleWith (profile 1 2 3 64 5 6))) = some 1#32 ∧
    lastRead (exec .rdCaptureMs (idleWith (profile 1 2 3 64 5 6))) = some 2#32 ∧
    lastRead (exec .rdMinIfgBytes (idleWith (profile 1 2 3 64 5 6))) = some 3#32 ∧
    lastRead (exec .rdDestMacHi (idleWith (profile 1 2 3 64 5 6))) = some 0x0000AABB#32 ∧
    lastRead (exec .rdDestMacLo (idleWith (profile 1 2 3 64 5 6))) = some 0xCCDDEEFF#32 ∧
    lastRead (exec .rdSrcMacHi (idleWith (profile 1 2 3 64 5 6))) = some 0x00001122#32 ∧
    lastRead (exec .rdSrcMacLo (idleWith (profile 1 2 3 64 5 6))) = some 0x33445566#32 ∧
    lastRead (exec .rdMaxFrameBytes (idleWith (profile 1 2 3 64 5 6))) = some 64#32 ∧
    lastRead (exec .rdFramesPerBurst (idleWith (profile 1 2 3 64 5 6))) = some 5#32 ∧
    lastRead (exec .rdBurstPeriodUs (idleWith (profile 1 2 3 64 5 6))) = some 6#32 := by
  decide

/-- The halves of the 64-bit registers (10_state R16). -/
theorem test_result_reads :
    let s := (((State.reset.withPlan ⟨0x1111111122222222#64, 7#32, 0x3333333344444444#64⟩).withFramesSent 0x5555555566666666#64).withLastFcs
      0x70E56884#32)
    lastRead (exec .rdTotalBurstsLo s) = some 0x22222222#32 ∧ lastRead (exec .rdTotalBurstsHi s) = some 0x11111111#32 ∧
    lastRead (exec .rdIfgWords s) = some 7#32 ∧
    lastRead (exec .rdEobWordsLo s) = some 0x44444444#32 ∧ lastRead (exec .rdEobWordsHi s) = some 0x33333333#32 ∧
    lastRead (exec .rdFramesSentLo s) = some 0x66666666#32 ∧ lastRead (exec .rdFramesSentHi s) = some 0x55555555#32 ∧
    lastRead (exec .rdLastFcs s) = some 0x70E56884#32 := by
  decide

/-- Write-only and reserved offsets read 0 (V-REG). -/
theorem test_zero_reads :
    lastRead (exec .rdCrcInit State.reset) = some 0#32 ∧ lastRead (exec .rdCrcData State.reset) = some 0#32 ∧
    lastRead (exec (.rdRsvd 0x5C#8) State.reset) = some 0#32 := by
  decide

/-! ### Writes -/

/-- A configuration write stores the bits its register has (V-REG: `WR DEST_MAC_HI, 0xFFFFAABB` reads `0x0000AABB`). -/
theorem test_configuration_writes_store :
    field (fun t => t.cfg.lineRateGbps) (exec (.wrLineRateGbps 0xFFFFAABB#32) State.reset) = some 0xFFFFAABB#32 ∧
    field (fun t => t.cfg.captureMs) (exec (.wrCaptureMs 0xFFFFAABB#32) State.reset) = some 0xFFFFAABB#32 ∧
    field (fun t => t.cfg.minIfgBytes) (exec (.wrMinIfgBytes 0xFFFFAABB#32) State.reset) = some 0xFFFFAABB#32 ∧
    field (fun t => t.cfg.destMacHi) (exec (.wrDestMacHi 0xFFFFAABB#32) State.reset) = some 0xAABB#16 ∧
    field (fun t => t.cfg.destMacLo) (exec (.wrDestMacLo 0xFFFFAABB#32) State.reset) = some 0xFFFFAABB#32 ∧
    field (fun t => t.cfg.srcMacHi) (exec (.wrSrcMacHi 0xFFFFAABB#32) State.reset) = some 0xAABB#16 ∧
    field (fun t => t.cfg.srcMacLo) (exec (.wrSrcMacLo 0xFFFFAABB#32) State.reset) = some 0xFFFFAABB#32 ∧
    field (fun t => t.cfg.maxFrameBytes) (exec (.wrMaxFrameBytes 0xFFFFAABB#32) State.reset) = some 0xFFFFAABB#32 ∧
    field (fun t => t.cfg.framesPerBurst) (exec (.wrFramesPerBurst 0xFFFFAABB#32) State.reset) = some 0xFFFFAABB#32 ∧
    field (fun t => t.cfg.burstPeriodUs) (exec (.wrBurstPeriodUs 0xFFFFAABB#32) State.reset) = some 0xFFFFAABB#32 := by
  decide

/-- The configuration is locked during a run (V-REG). -/
theorem test_configuration_writes_are_locked :
    field id (exec (.wrLineRateGbps 99#32) atFrameTop) = some atFrameTop ∧
    field id (exec (.wrCaptureMs 99#32) atFrameTop) = some atFrameTop ∧
    field id (exec (.wrMinIfgBytes 99#32) atFrameTop) = some atFrameTop ∧
    field id (exec (.wrDestMacHi 99#32) atFrameTop) = some atFrameTop ∧
    field id (exec (.wrDestMacLo 99#32) atFrameTop) = some atFrameTop ∧
    field id (exec (.wrSrcMacHi 99#32) atFrameTop) = some atFrameTop ∧
    field id (exec (.wrSrcMacLo 99#32) atFrameTop) = some atFrameTop ∧
    field id (exec (.wrMaxFrameBytes 99#32) atFrameTop) = some atFrameTop ∧
    field id (exec (.wrFramesPerBurst 99#32) atFrameTop) = some atFrameTop ∧
    field id (exec (.wrBurstPeriodUs 99#32) atFrameTop) = some atFrameTop := by
  decide

/-- Writes to read-only and reserved offsets change nothing (V-REG). -/
theorem test_ignored_writes :
    field id (exec (.wrStatus 5#32) State.reset) = some State.reset ∧
    field id (exec (.wrTotalBurstsLo 5#32) State.reset) = some State.reset ∧
    field id (exec (.wrTotalBurstsHi 5#32) State.reset) = some State.reset ∧
    field id (exec (.wrIfgWords 5#32) State.reset) = some State.reset ∧
    field id (exec (.wrEobWordsLo 5#32) State.reset) = some State.reset ∧
    field id (exec (.wrEobWordsHi 5#32) State.reset) = some State.reset ∧
    field id (exec (.wrFramesSentLo 5#32) State.reset) = some State.reset ∧
    field id (exec (.wrFramesSentHi 5#32) State.reset) = some State.reset ∧
    field id (exec (.wrLastFcs 5#32) State.reset) = some State.reset ∧
    field id (exec (.wrCrcResult 5#32) State.reset) = some State.reset ∧
    field id (exec (.wrRsvd 0x5C#8 0x12345678#32) State.reset) = some State.reset := by
  decide

/-- `RD @0x01` and `WR @0x06, 0` are refused by name (V-REG). -/
theorem test_misaligned_is_refused :
    (match exec (decode 0x00100000000#41) State.reset with | .refused r => decide (r = .misaligned 1#8) | _ => false) = true ∧
    (match exec (decode 0x10600000000#41) State.reset with | .refused r => decide (r = .misaligned 6#8) | _ => false) = true := by
  decide

/-! ### CTRL and START (V-REG, V-PLAN, V-ERR) -/

/-- `WR CTRL, 0x7` from reset: PAD_TO_WORD is stored, STOP is ignored, START fails PARAM. -/
theorem test_ctrl_write_from_reset :
    let t := State.reset.writeCtrl 7#32
    t.padToWord = true ∧ t.seq.stopReq = false ∧ statusWord t = 0x22#32 ∧ ctrlWord t = 0x4#32 := by
  decide

/-- While busy `WR CTRL, 0x6` only sets the pending stop. -/
theorem test_ctrl_write_while_busy :
    let t := atFrameTop.writeCtrl 6#32
    ctrlWord t = 0x2#32 ∧ statusWord t = 0x1#32 ∧ t.padToWord = false := by
  decide

/-- V-PLAN rows 1, 4, 5, 6, 7, 19, 20. -/
theorem test_plan :
    planRegs (profile 10 1 12 64 1 1000) = ⟨1#64, 3#32, 312484#64⟩ ∧ (planRegs (profile 1 1 0 64 2 1)).eobWords = 0#64 ∧
    (planRegs (profile 1 1 0 125 1 1)).eobWords = 0#64 ∧ (planRegs (profile 1 1 0 124 1 1)).eobWords = 1#64 ∧
    planRegs (profile 1 1 13 64 1 1000) = ⟨1#64, 4#32, 31234#64⟩ ∧ planRegs (profile 1 1 5 26 2 500) = ⟨2#64, 2#32, 15612#64⟩ ∧
    planRegs (profile 100 5 12 1518 10 100) = ⟨50#64, 3#32, 308705#64⟩ := by
  decide

/-- V-PLAN rows 8, 9, 10, 14, 15 and the check order of 42_burst_plan R95. -/
theorem test_start_errors :
    statusWord (idleWith (profile 0 1 12 25 1 1000)).start = 0x22#32 ∧ statusWord (idleWith (profile 10 1 12 64 1 0)).start = 0x22#32 ∧
    statusWord (idleWith (profile 10 1 12 25 1 1000)).start = 0x12#32 ∧
    (idleWith (profile 10 1 12 25 1 1000)).start.plan = ⟨1#64, 3#32, 312494#64⟩ ∧
    statusWord (idleWith (profile 0xFFFFFFFF 1 0 25 1 0xFFFFFFFF)).start = 0x32#32 ∧
    statusWord (idleWith (profile 1 0xFFFFFFFF 0 64 0xFFFFFFFF 1)).start = 0x32#32 ∧
    (idleWith (profile 1 0xFFFFFFFF 0 64 0xFFFFFFFF 1)).start.plan = ⟨0#64, 0#32, 0#64⟩ := by
  decide

/-- V-PLAN rows 11, 12, 13: accepted; and the boundary of the range check, `B * F = 2^64 - 2^32`. -/
theorem test_start_accepted :
    statusWord (idleWith (profile 10 1 12 25 0 1000)).start = 0x1#32 ∧ statusWord (idleWith (profile 10 0 12 25 1 1000)).start = 0x1#32 ∧
    statusWord (idleWith (profile 10 1 12 26 1 1000)).start = 0x1#32 ∧
    statusWord (idleWith (profile 1 536870912 0 26 0xFFFFFFFF 125)).start = 0x1#32 := by
  decide

/-! ### The CRC and its port (V-CRC, V-CRC-STEP, P1) -/

theorem test_crc_step :
    crcShift 0xFFFFFFCE#32 = 0x7FFFFFE7#32 ∧ crcShift 0x7FFFFFE7#32 = 0xD2477CD3#32 ∧ crcUpdate 0xFFFFFFFF#32 0x31#8 = 0x7C231048#32 := by
  decide +kernel

theorem test_crc_check_value :
    crc32 [0x31#8, 0x32#8, 0x33#8, 0x34#8, 0x35#8, 0x36#8, 0x37#8, 0x38#8, 0x39#8] = 0xCBF43926#32 ∧ crc32 [0x00#8] = 0xD202EF8D#32 ∧
    crc32 [0xFF#8] = 0xFF000000#32 := by
  decide +kernel

/-- Only `WDATA[7:0]` is folded. -/
theorem test_crc_data_write :
    field (fun t => t.hcrc) (exec (.wrCrcData 0x131#32) State.reset) = some 0x7C231048#32 := by decide

theorem test_crc_init_write :
    field (fun t => t.hcrc) (exec (.wrCrcInit 0x12345678#32) (State.reset.withHcrc 0#32)) = some 0xFFFFFFFF#32 := by decide

/-- `RD CRC_RESULT` in P1, row 12, from the register after the ninth octet (V-CRC-RUN). -/
theorem test_crc_result_read :
    lastRead (exec .rdCrcResult (State.reset.withHcrc 0x340BC6D9#32)) = some 0xCBF43926#32 := by decide

/-! ### Frames and beats (V-FRAME) -/

theorem test_frame_check_sequences :
    frameFcs Params.default (profile 1 1 1 26 1 1) = 0x3D7A5052#32 ∧ frameFcs Params.default (profile 1 1 1 29 1 1) = 0x9A12E687#32 ∧
    frameFcs Params.default (profile 1 1 1 64 1 1) = 0x70E56884#32 := by
  decide +kernel

theorem test_frame_beats :
    frameBeats Params.default (profile 1 1 1 26 1 1) false =
      [⟨4#3, 0xFB555555#32⟩, ⟨4#3, 0x555555D5#32⟩, ⟨4#3, 0xAABBCCDD#32⟩, ⟨4#3, 0xEEFF1122#32⟩, ⟨4#3, 0x33445566#32⟩,
        ⟨4#3, 0x08003D7A#32⟩, ⟨2#3, 0x50520000#32⟩] ∧
    (frameBeats Params.default (profile 1 1 1 26 1 1) true)[6]? = some ⟨4#3, 0x50520000#32⟩ ∧
    (frameBeats Params.default (profile 1 1 1 29 1 1) false).drop 5 =
      [⟨4#3, 0x08000000#32⟩, ⟨4#3, 0x009A12E6#32⟩, ⟨1#3, 0x87000000#32⟩] := by
  decide +kernel

theorem test_render : renderBeat TextStyle.spec ⟨2#3, 0x50520000#32⟩ = ['5', '0', '5', '2', Char.ofNat 0x0A] := by decide

/-! ### Sequencer steps (43_serializer R102 to R107, P4) -/

theorem test_first_frame_beat :
    ((atFrame 0).turn true).stream = [⟨4#3, 0xFB555555#32⟩] ∧ ((atFrame 0).turn true).seq.byte = 4#32 := by decide

/-- The short last beat of P4's frame: it counts the frame and records its FCS. -/
theorem test_last_frame_beat :
    let t := (atFrame 24).turn true
    t.stream = [⟨2#3, 0x50520000#32⟩] ∧ t.framesSent = 1#64 ∧ t.lastFcs = 0x3D7A5052#32 ∧ t.seq.phase = .ifg ∧ t.seq.fill = 1#64 := by
  decide +kernel

theorem test_filler_beat :
    ((atIfg 1).turn true).stream = [⟨4#3, 0x07070707#32⟩] ∧ ((atIfg 1).turn true).seq.fill = 0#64 ∧ (atIfg 1).turn false = atIfg 1 := by
  decide +kernel

theorem test_stop_at_frame_top :
    let t := (stopping atFrameTop).turn false
    statusWord t = 0x6#32 ∧ t.seq.stopReq = false := by
  decide

/-- A stop pending when the last burst is done is not reported (43_serializer R102). -/
theorem test_stop_after_last_burst : statusWord ((stopping atEnd).turn false) = 0x2#32 := by decide

/-- 10_state R35 (e) says `FRAMES_SENT = seq.burst * F + seq.frame` at `BURST_TOP`. The step of 43_serializer R106 from the end of
burst 0 with `F = 1` leaves `seq.frame = 1`, `seq.burst = 1` and `FRAMES_SENT = 1`: 1 is not 1 * 1 + 1 (log 9). -/
theorem test_burst_top_frame_count :
    let c := profile 1 2 0 26 1 1000
    let s := (((idleWith c).withPlan (planRegs c)).withFramesSent 1#64).withSeq
      { phase := .eob, burst := 0#64, frame := 1#32, byte := 26#32, fill := 0#64, fcs := 0#32, stopReq := false }
    let t := s.turn true
    t.seq.phase = .burstTop ∧ t.seq.burst = 1#64 ∧ t.seq.frame = 1#32 ∧ t.framesSent = 1#64 := by
  decide

/-! ### The host's tools (30_encoding R66, R67; V-ERR) -/

/-- The program of a script given as text. -/
def program (text : List String) : Option (List AgentLine) :=
  (readScript (text.map String.toList)).bind (fun ops => result (assemble ops))

/-- What the assembler reports of a script given as text. -/
def reported (text : List String) : Option Refusal :=
  (readScript (text.map String.toList)).bind (fun ops => refusal (assemble ops))

theorem test_assemble_set_mac :
    program ["  SETMAC DEST, aabbCCDDEEFF ; the MAC"] =
      some [.transaction 0x1140000AABB#41, .transaction 0x118CCDDEEFF#41] := by decide

theorem test_assemble_wait_done :
    program ["START PAD", "WAITDONE"] =
      some [.transaction 0x10000000005#41, .branch 0x00400000000#41 3#32 2#32 1] := by decide

/-- The label stands at the third operation, whose expansion begins at line 4 of the program. -/
theorem test_assemble_branch_to_label :
    program ["RD64 DEST_MAC", "CRCSTR " ++ String.ofList [Char.ofNat 0x22, '1', ';', Char.ofNat 0x22], "w: ; here", "RD STATUS",
        "BNE STATUS, 0x3, 2, w"] =
      some [.transaction 0x01800000000#41, .transaction 0x01400000000#41, .transaction 0x15400000031#41,
        .transaction 0x1540000003B#41, .transaction 0x00400000000#41, .branch 0x00400000000#41 3#32 2#32 4] := by decide +kernel

/-- `CRCHEX 0A1` and an 11-digit MAC are MalformedHexErrors; `RD @0x01` is refused by name. -/
theorem test_assemble_refuses :
    reported ["CRCHEX 0A1"] = some .malformedHex ∧ reported ["SETMAC DEST, AABBCCDDEEF"] = some .malformedHex ∧
    reported ["RD @0x01"] = some (.misaligned 1#8) ∧ reported ["WR CTRL, 4294967296"] = some (.immediateOutOfRange 4294967296) ∧
    reported ["WR CTRL, -1"] = some (.immediateOutOfRange (-1)) := by
  decide

/-- Text that spells no script: an unknown mnemonic, a label that stands nowhere, a label that stands twice (log 15). -/
theorem test_no_script :
    readScript ["FOO".toList] = none ∧ readScript ["BNE STATUS, 1, 0, x".toList] = none ∧
    readScript ["x: STOP".toList, "x: STOP".toList] = none := by decide

/-- A record with both MACs and one integer key: the other integers are 0 (44_register_ops R155). -/
theorem test_loader_writes :
    (result (loaderWrites (some [("destMac".toList, "AABBCCDDEEFF".toList), ("srcMac".toList, "112233445566".toList),
      ("lineRateGbps".toList, "10".toList)]))).map (fun p => (p.length, p[0]?, p[4]?, p[9]?)) =
      some (10, some (.transaction 0x1080000000A#41), some (.transaction 0x118CCDDEEFF#41), some (.transaction 0x12C00000000#41)) := by
  decide

/-- `lineRateGbps -1` is a ConfigurationError. -/
theorem test_loader_refuses :
    refusal (loaderWrites (some [("lineRateGbps".toList, "-1".toList)])) = some .configurationError := by decide

/-! ### States that meet the invariant -/

/-- The invariant of a state with an empty stream, its fields as three decidable statements. -/
theorem inv_of_fields {s : State} (hs : s.stream = [])
    (ha : (s.busy = true → s.status.done = false) ∧
      (s.status.err ≠ .none → s.status.done = true ∧ s.busy = false ∧ s.status.cancelled = false) ∧
      (s.status.cancelled = true → s.status.done = true) ∧ (s.seq.stopReq = true → s.busy = true) ∧
      (s.busy = true →
        paramError s.cfg = false ∧ rangeError s.cfg = false ∧ sizeError s.cfg = false ∧ s.plan = planRegs s.cfg))
    (hb : (s.busy = true →
        s.seq.burst.toNat ≤ s.totalBursts ∧ (s.seq.phase ≠ .burstTop → s.seq.burst.toNat < s.totalBursts)) ∧
      (s.busy = true → s.seq.frame.toNat ≤ s.framesPerBurst ∧
        (s.seq.phase = .frame ∨ s.seq.phase = .ifg → s.seq.frame.toNat < s.framesPerBurst) ∧
        (s.seq.phase = .eob → s.seq.frame.toNat = s.framesPerBurst)) ∧
      (s.busy = true → s.seq.byte.toNat ≤ s.cfg.frameBytes ∧
        (s.seq.phase = .frame → s.seq.byte.toNat < s.cfg.frameBytes ∧ s.seq.byte.toNat % 4 = 0)) ∧
      ((s.seq.phase = .ifg → s.seq.fill.toNat ≤ s.plan.ifgWords.toNat) ∧
        (s.seq.phase = .eob → s.seq.fill.toNat ≤ s.plan.eobWords.toNat)))
    (hc : (s.busy = true → s.framesSent.toNat = s.framesDone) ∧
      (s.seq.phase = .frame →
        s.seq.fcs = crcFold crcInitValue (bodyPrefix s.params s.cfg (min s.seq.byte.toNat (s.cfg.frameBytes - 4)))) ∧
      (s.busy = true → s.lastFcs = if s.framesSent = 0#64 then 0#32 else frameFcs s.params s.cfg)) : s.Inv := by
  obtain ⟨h1, h2, h3, h4, h5⟩ := ha
  obtain ⟨h6, h7, h8, h9⟩ := hb
  obtain ⟨h10, h11, h12⟩ := hc
  exact ⟨h1, h2, h3, h4, h5, h6, h7, h8, h9, h10, h11, h12, fun b hm => by rw [hs] at hm; cases hm⟩


theorem inv_at_burst_top : State.Inv atBurstTop := inv_of_fields rfl (by decide) (by decide) (by decide +kernel)

theorem inv_at_frame_top : State.Inv atFrameTop := inv_of_fields rfl (by decide) (by decide) (by decide +kernel)

theorem inv_at_first_beat : State.Inv (atFrame 0) := inv_of_fields rfl (by decide) (by decide) (by decide +kernel)

theorem inv_before_the_last_two_beats : State.Inv (atFrame 20) := inv_of_fields rfl (by decide) (by decide) (by decide +kernel)

theorem inv_at_last_beat : State.Inv (atFrame 24) := inv_of_fields rfl (by decide) (by decide) (by decide +kernel)

theorem inv_at_ifg : State.Inv (atIfg 1) := inv_of_fields rfl (by decide) (by decide) (by decide +kernel)

theorem inv_at_ifg_end : State.Inv (atIfg 0) := inv_of_fields rfl (by decide) (by decide) (by decide +kernel)

theorem inv_at_eob : State.Inv (atEob 31231) := inv_of_fields rfl (by decide) (by decide) (by decide +kernel)

theorem inv_at_eob_end : State.Inv (atEob 0) := inv_of_fields rfl (by decide) (by decide) (by decide +kernel)

theorem inv_at_end : State.Inv atEnd := inv_of_fields rfl (by decide) (by decide) (by decide +kernel)

theorem inv_stopping_at_frame_top : State.Inv (stopping atFrameTop) := inv_of_fields rfl (by decide) (by decide) (by decide +kernel)

theorem inv_stopping_at_burst_top : State.Inv (stopping atBurstTop) := inv_of_fields rfl (by decide) (by decide) (by decide +kernel)

theorem inv_idle : State.Inv (idleWith p4) := inv_of_fields rfl (by decide) (by decide) (by decide +kernel)

/-! ### Witnesses: the hypotheses of each obligation are met

`witness_O<k>_<clause>` is for obligation O<k>. An obligation without hypotheses has none. -/

/-- An event that brings a sequencer turn. -/
def withTurn (s : State) : State := s.withSchedule [.sequencerTurn true]

theorem witness_O1 :
    Instr.wellFormed (.rdRsvd 0x5C#8) = true ∧ Instr.wellFormed (.wrRsvd 0xFC#8 7#32) = true ∧
    Instr.wellFormed (.misaligned false 0x01#8 0#32) = true ∧ Instr.wellFormed (.misaligned true 0xFF#8 7#32) = true ∧
    Instr.wellFormed (.wrCtrl 0xFFFFFFFF#32) = true := by
  decide

theorem witness_O3_reserved :
    (0x5C#8).extractLsb' 0 2 = 0#2 ∧ 0x5C ≤ (0x5C#8).toNat ∧ (0xFC#8).extractLsb' 0 2 = 0#2 ∧ 0x5C ≤ (0xFC#8).toNat := by
  decide

theorem witness_O5 :
    (0x00100000000#41).extractLsb' 32 2 ≠ 0#2 ∧ (0x1FF00000000#41).extractLsb' 32 2 ≠ 0#2 ∧
    (0x00000000000#41).extractLsb' 32 2 = 0#2 ∧ (0x1FC00000000#41).extractLsb' 32 2 = 0#2 := by
  decide

theorem witness_O6_transaction :
    (State.reset.withSchedule [.transaction 0#41]).schedule = .transaction 0#41 :: [] ∧
    Instr.wellFormed (.wrCtrl 1#32) = true ∧
    (State.reset.withSchedule [.transaction (encode (.wrCtrl 1#32))]).schedule = .transaction (encode (.wrCtrl 1#32)) :: [] := by
  decide

theorem witness_O6_other_events :
    (withTurn State.reset).schedule = .sequencerTurn true :: [] ∧
    (State.reset.withSchedule [.reset]).schedule = .reset :: [] ∧
    (State.reset.withSchedule [.script []]).schedule = .script [] :: [] ∧
    (State.reset.withSchedule [.record none]).schedule = .record none :: [] ∧
    (State.reset.withSchedule [.hostTurn]).schedule = .hostTurn :: [] ∧ State.reset.schedule = [] := by
  decide

theorem witness_O7_pending : (stopping atFrameTop).Inv ∧ (stopping atFrameTop).seq.stopReq = true :=
  ⟨inv_stopping_at_frame_top, by decide⟩

theorem witness_O7_start : (idleWith p4).seq.phase = .idle ∧ ((idleWith p4).writeCtrl 0x5#32).seq.phase ≠ .idle := by decide

theorem witness_O8_ended :
    State.reset.seq.phase = .idle ∧ (State.reset.withStatus ⟨true, false, .size⟩).status = ⟨true, false, .size⟩ ∧
    (State.reset.withStatus ⟨true, false, .param⟩).seq.phase = .idle ∧ (State.reset.withStatus ⟨true, false, .range⟩).seq.phase = .idle ∧
    (State.reset.withStatus ⟨true, false, .none⟩).seq.phase = .idle ∧ (State.reset.withStatus ⟨true, true, .none⟩).seq.phase = .idle := by
  decide

theorem witness_O8_invariant : atFrameTop.Inv := inv_at_frame_top

/-- Also for O36 and O39 (a run that goes on). -/
theorem witness_O10_run_goes_on :
    (withTurn atBurstTop).busy = true ∧ field State.busy (step (withTurn atBurstTop)) = some true := by decide

theorem witness_O11_reserved : (0x5C#8).extractLsb' 0 2 = 0#2 ∧ 0x5C ≤ (0x5C#8).toNat := by decide

theorem witness_O12 : State.reset.seq.phase = .idle ∧ atFrameTop.seq.phase ≠ .idle := by decide

theorem witness_O13_start :
    field (fun t => decide (t.plan ≠ (idleWith p4).plan)) (exec (.wrCtrl 1#32) (idleWith p4)) = some true ∧
    field (fun t => decide (t.status ≠ State.reset.status)) (exec (.wrCtrl 1#32) State.reset) = some true := by
  decide

theorem witness_O14 :
    atFrameTop.seq.phase ≠ .idle ∧ State.reset.seq.phase = .idle ∧ (0x6#32).getLsbD 0 = false ∧ (0x7#32).getLsbD 0 = true := by
  decide

/-- PARAM: `R = 0`, and `P = 0`. -/
theorem witness_O15_param :
    (idleWith (profile 0 1 1 26 1 1)).seq.phase = .idle ∧ (1#32).getLsbD 0 = true ∧
    (profile 0 1 1 26 1 1).lineRateGbps.toNat = 0 ∧ (profile 1 1 1 26 1 0).burstPeriodUs.toNat = 0 := by
  decide

/-- RANGE by `EOBW`, and by `B * F`. -/
theorem witness_O15_range :
    2 ^ 64 ≤ (0xFFFFFFFF * 0xFFFFFFFF * 1000 - 1 * 64 * 8 + 31) / 32 ∧ 2 ^ 64 ≤ 4294968 * 1000 / 1 * 4294967295 ∧
    rangeError (profile 0xFFFFFFFF 1 0 64 1 0xFFFFFFFF) = true ∧ rangeError (profile 1 4294968 0 64 4294967295 1) = true ∧
    paramError (profile 0xFFFFFFFF 1 0 64 1 0xFFFFFFFF) = false ∧ paramError (profile 1 4294968 0 64 4294967295 1) = false := by
  decide

/-- SIZE at `S = 25`; accepted at `S = 26`, and at `S = 25` with `B = 0` or `F = 0`. -/
theorem witness_O15_size_and_accepted :
    sizeError (profile 10 1 12 25 1 1000) = true ∧ rangeError (profile 10 1 12 25 1 1000) = false ∧
    paramError (profile 10 1 12 25 1 1000) = false ∧ sizeError (profile 10 1 12 26 1 1000) = false ∧
    sizeError (profile 10 0 12 25 1 1000) = false ∧ sizeError (profile 10 1 12 25 0 1000) = false ∧
    rangeError (profile 10 1 12 26 1 1000) = false ∧ paramError (profile 10 1 12 26 1 1000) = false := by
  decide

theorem witness_O16 :
    State.reset.seq.phase = .idle ∧ paramError State.reset.cfg = true ∧
    (idleWith (profile 0xFFFFFFFF 1 0 64 1 0xFFFFFFFF)).seq.phase = .idle ∧
    rangeError (idleWith (profile 0xFFFFFFFF 1 0 64 1 0xFFFFFFFF)).cfg = true ∧
    (idleWith (profile 1 1 0 25 1 1000)).seq.phase = .idle ∧ sizeError (idleWith (profile 1 1 0 25 1 1000)).cfg = true := by
  decide

theorem witness_O17_bursts :
    (profile 1 1 0 64 1 1001).burstPeriodUs ≠ 0#32 ∧
    (profile 1 1 0 64 1 1001).captureMs.toNat * 1000 < (profile 1 1 0 64 1 1001).burstPeriodUs.toNat := by
  decide

theorem witness_O17_gaps :
    (profile 1 1 12 64 1 1).minIfgBytes = 12#32 ∧ (profile 1 1 13 64 1 1).minIfgBytes = 13#32 ∧
    (profile 1 1 0 64 1 1).minIfgBytes = 0#32 ∧ (profile 1 1 1 64 1 1).minIfgBytes = 1#32 := by
  decide

/-- `RB = 0` (V-PLAN row 5), `RB = 8` (row 6) and `F = 0`. -/
theorem witness_O17_remainder :
    (profile 1 1 0 125 1 1).burstPeriodUs.toNat * (profile 1 1 0 125 1 1).lineRateGbps.toNat * 1000 ≤
      (profile 1 1 0 125 1 1).framesPerBurst.toNat * (profile 1 1 0 125 1 1).maxFrameBytes.toNat * 8 ∧
    planRemainingBits (profile 1 1 0 124 1 1) = 8 ∧ (profile 1 1 0 124 0 1).framesPerBurst = 0#32 := by
  decide

theorem witness_O20_write : field (fun t => decide (t.hcrc ≠ State.reset.hcrc)) (exec (.wrCrcData 0x31#32) State.reset) = some true := by
  decide

/-- Also for O22, with `4 * k < S` at the last beat, `k = 6`. -/
theorem witness_O21 : 26 ≤ p4.maxFrameBytes.toNat ∧ 4 * 6 < p4.maxFrameBytes.toNat := by decide

/-- A second profile that differs only where the frame does not look. -/
theorem witness_O21_same_frame :
    let c := profile 7 8 9 26 5 6
    c.maxFrameBytes = p4.maxFrameBytes ∧ c.destMacHi = p4.destMacHi ∧ c.destMacLo = p4.destMacLo ∧ c.srcMacHi = p4.srcMacHi ∧
      c.srcMacLo = p4.srcMacLo := by
  decide

theorem witness_O23 : PlanRegs.zero.totalBursts = 0#64 ∧ (profile 1 1 0 64 0 1).framesPerBurst = 0#32 := by decide

theorem witness_O24 :
    atEnd.seq.phase = .burstTop ∧ atEnd.seq.burst = atEnd.plan.totalBursts ∧
    (stopping atBurstTop).seq.phase = .burstTop ∧ (stopping atBurstTop).seq.burst ≠ (stopping atBurstTop).plan.totalBursts ∧
    (stopping atBurstTop).seq.stopReq = true ∧ atBurstTop.seq.phase = .burstTop ∧ atBurstTop.seq.burst ≠ atBurstTop.plan.totalBursts ∧
    atBurstTop.seq.stopReq = false := by
  decide

theorem witness_O25 :
    (runningAt .frameTop 3 26 0).seq.phase = .frameTop ∧ (runningAt .frameTop 3 26 0).seq.frame = p4.framesPerBurst ∧
    (stopping atFrameTop).seq.phase = .frameTop ∧ (stopping atFrameTop).seq.frame ≠ (stopping atFrameTop).cfg.framesPerBurst ∧
    (stopping atFrameTop).seq.stopReq = true ∧ atFrameTop.seq.phase = .frameTop ∧ atFrameTop.seq.frame ≠ atFrameTop.cfg.framesPerBurst ∧
    atFrameTop.seq.stopReq = false := by
  decide

theorem witness_O26 :
    (atIfg 0).seq.phase = .ifg ∧ (atIfg 0).seq.fill = 0#64 ∧ (atEob 0).seq.phase = .eob ∧ (atEob 0).seq.fill = 0#64 ∧
    (atIfg 1).seq.phase = .ifg ∧ (atIfg 1).seq.fill ≠ 0#64 ∧ (atEob 31231).seq.phase = .eob ∧ (atEob 31231).seq.fill ≠ 0#64 := by
  decide

theorem witness_O27_inside : (atFrame 20).Inv ∧ (atFrame 20).seq.phase = .frame ∧
    (atFrame 20).seq.byte.toNat + 4 < (atFrame 20).cfg.maxFrameBytes.toNat :=
  ⟨inv_before_the_last_two_beats, by decide⟩

theorem witness_O27_last : (atFrame 24).Inv ∧ (atFrame 24).seq.phase = .frame ∧
    (atFrame 24).cfg.maxFrameBytes.toNat ≤ (atFrame 24).seq.byte.toNat + 4 :=
  ⟨inv_at_last_beat, by decide⟩

theorem witness_O28 :
    (atFrame 0).seq.phase = .frame ∧ (atIfg 1).seq.phase = .ifg ∧ (atIfg 1).seq.fill ≠ 0#64 ∧
    (atEob 31231).seq.phase = .eob ∧ (atEob 31231).seq.fill ≠ 0#64 ∧ State.reset.seq.phase = .idle ∧
    ¬((atIfg 0).seq.phase = .frame ∨ (((atIfg 0).seq.phase = .ifg ∨ (atIfg 0).seq.phase = .eob) ∧ (atIfg 0).seq.fill ≠ 0#64)) := by
  decide

/-- A step that emits, in a state that meets the invariant (also for O30). -/
theorem witness_O29_emits :
    (atFrame 0).Inv ∧ field (fun t => t.stream.length) (step (withTurn (atFrame 0))) = some 1 :=
  ⟨inv_at_first_beat, by decide⟩

theorem witness_O29_holds :
    ((atEob 31231).withSchedule [.sequencerTurn false]).schedule = .sequencerTurn false :: [] ∧
    ((atEob 31231).withSchedule [.sequencerTurn false]).seq.phase = .eob ∧ (atEob 31231).seq.fill ≠ 0#64 ∧
    field id (step ((atEob 31231).withSchedule [.sequencerTurn false])) = some (atEob 31231) := by
  decide +kernel

/-- The events to come are no part of the invariant. -/
theorem inv_withSchedule {s : State} (h : s.Inv) (es : List Event) : (s.withSchedule es).Inv :=
  ⟨h.1, h.2, h.3, h.4, h.5, h.6, h.7, h.8, h.9, h.10, h.11, h.12, h.13⟩

theorem witness_O33 : (withTurn (atFrame 24)).Inv ∧ field (fun t => t.seq.phase) (step (withTurn (atFrame 24))) = some .ifg :=
  ⟨inv_withSchedule inv_at_last_beat _, by decide⟩

/-- An accepted START: P4's profile, with `N > 0` turns to go (also for the second part of O35, `b = 0` and `f = 2`). -/
theorem witness_O34_accepted :
    (idleWith p4).Inv ∧ (idleWith p4).seq.phase = .idle ∧ paramError (idleWith p4).cfg = false ∧ rangeError (idleWith p4).cfg = false ∧
    sizeError (idleWith p4).cfg = false ∧ 0 < planBursts (idleWith p4).cfg ∧ 2 < (idleWith p4).cfg.framesPerBurst.toNat :=
  ⟨inv_idle, by decide⟩

/-- A schedule of turns and transactions with as many ready turns as the run needs: `C = 0`, so `N = 1` (V-PLAN row 12). -/
theorem witness_O34_schedule :
    let s := idleWith (profile 10 0 12 25 1 1000)
    let es : List Event := [.sequencerTurn false, .transaction 0x00400000000#41, .transaction 0x10000000004#41, .sequencerTurn true]
    s.seq.phase = .idle ∧ paramError s.cfg = false ∧ rangeError s.cfg = false ∧ sizeError s.cfg = false ∧
    s.start.totalBursts * (2 * s.start.framesPerBurst + 3) + 1 = 1 ∧ es.count (.sequencerTurn true) = 1 ∧
    (0x00400000000#41).extractLsb' 32 2 = 0#2 ∧ (0x00400000000#41).getLsbD 40 = false ∧
    (0x10000000004#41).extractLsb' 32 2 = 0#2 ∧ (0x10000000004#41).extractLsb' 0 2 = 0#2 := by
  decide

/-- A run that has emitted what its position says, and goes on. -/
theorem witness_O35_goes_on :
    (withTurn atBurstTop).Inv ∧ (withTurn atBurstTop).busy = true ∧
    (withTurn atBurstTop).stream = [] ++ (withTurn atBurstTop).progress ∧
    field State.busy (step (withTurn atBurstTop)) = some true :=
  ⟨inv_withSchedule inv_at_burst_top _, by decide⟩

/-- A run that is cancelled by its next step, which is no reset. -/
theorem witness_O35_cancelled :
    (withTurn (stopping atBurstTop)).Inv ∧ (withTurn (stopping atBurstTop)).busy = true ∧
    (withTurn (stopping atBurstTop)).stream = [] ++ (withTurn (stopping atBurstTop)).progress ∧
    field State.busy (step (withTurn (stopping atBurstTop))) = some false ∧
    (∀ es, (withTurn (stopping atBurstTop)).schedule ≠ .reset :: es) :=
  ⟨inv_withSchedule inv_stopping_at_burst_top _, by decide, by decide, by decide, fun es h => by cases h⟩

theorem witness_O37_read : (0x04C00000000#41).getLsbD 40 = false ∧ (0x04C00000000#41).extractLsb' 32 2 = 0#2 := by decide

theorem witness_O37_write :
    field (fun t => decide (t.agent = State.reset.agent)) (exec (.wrLineRateGbps 10#32) State.reset) = some true ∧
    (∀ x, Instr.wrLineRateGbps 10#32 ≠ .wrCtrl x ∧ Instr.wrLineRateGbps 10#32 ≠ .wrCrcData x) :=
  ⟨by decide, fun x => ⟨by simp, by simp⟩⟩

/-- A run that goes on, one that ends normally and one that is cancelled, each by its next step. -/
theorem witness_O38 :
    ((withTurn atBurstTop).Inv ∧ (withTurn atBurstTop).busy = true) ∧
    ((withTurn atEnd).Inv ∧ (withTurn atEnd).busy = true ∧ field State.busy (step (withTurn atEnd)) = some false) ∧
    ((withTurn (stopping atFrameTop)).Inv ∧ (withTurn (stopping atFrameTop)).busy = true ∧
      field State.busy (step (withTurn (stopping atFrameTop))) = some false) :=
  ⟨⟨inv_withSchedule inv_at_burst_top _, by decide⟩, ⟨inv_withSchedule inv_at_end _, by decide⟩,
    ⟨inv_withSchedule inv_stopping_at_frame_top _, by decide⟩⟩

theorem witness_O39_write : atFrameTop.busy = true ∧ (0x2#32).getLsbD 1 = true := by decide

theorem witness_O39_kept :
    (withTurn (stopping (atFrame 0))).busy = true ∧ (withTurn (stopping (atFrame 0))).seq.stopReq = true ∧
    field State.busy (step (withTurn (stopping (atFrame 0)))) = some true := by
  decide

theorem witness_O39_boundaries :
    (atBurstTop.seq.phase = .burstTop ∧ atBurstTop.seq.burst ≠ atBurstTop.plan.totalBursts) ∧
    (atFrameTop.seq.phase = .frameTop ∧ atFrameTop.seq.frame ≠ atFrameTop.cfg.framesPerBurst) ∧
    atFrameTop.seq.stopReq = false ∧ (stopping atFrameTop).seq.stopReq = true ∧ (atFrame 0).seq.phase = .frame ∧
    (stopping atFrameTop).busy = true ∧ ((stopping atFrameTop).turn true).busy = false := by
  decide

theorem witness_O40 :
    (withTurn (atFrame 24)).Inv ∧ (withTurn (atFrame 24)).busy = true ∧
    field (fun t => t.framesSent) (step (withTurn (atFrame 24))) = some 1#64 ∧
    (∀ es, (withTurn (atFrame 24)).schedule ≠ .reset :: es) ∧ State.reset.busy = false :=
  ⟨inv_withSchedule inv_at_last_beat _, by decide, by decide +kernel, (fun es h => by cases h), rfl⟩

theorem witness_O41 :
    (withTurn State.reset).busy = false ∧ field id (step (withTurn State.reset)) = some State.reset := by decide

theorem witness_O42 : (atFrame 24 |>.withSchedule [.reset]).schedule = .reset :: [] := by decide

theorem witness_O44 :
    let s := State.reset.withAgent { program := [.transaction 0x10000000001#41, .branch 0x00400000000#41 3#32 2#32 1], pc := 1, reads := [] }
    s.agent.program[0]? = some (.transaction 0x10000000001#41) ∧
    s.agent.program[s.agent.pc]? = some (.branch 0x00400000000#41 3#32 2#32 1) ∧
    field id (exec (decode 0x00400000000#41) s) = some { s with agent := { s.agent with reads := s.agent.reads ++ [0#32] } } ∧
    s.agent.program[2]? = none := by
  decide

/-- A text spells an address if its digits have the values of the nibbles. -/
theorem spells {t : Text} {m : BitVec 48}
    (h : ∀ j, j < 12 → t[j]?.bind hexDigit = some (m.extractLsb' (44 - 4 * j) 4).toNat) :
    ∀ j, j < 12 → ∃ c, t[j]? = some c ∧ hexDigit c = some (m.extractLsb' (44 - 4 * j) 4).toNat :=
  fun j hj => Option.bind_eq_some_iff.1 (h j hj)

theorem witness_O45_address :
    State.reset.seq.phase = .idle ∧ "aabbccDDEEff".toList.length = 12 ∧
    ∀ j, j < 12 → ∃ c, "aabbccDDEEff".toList[j]? = some c ∧
      hexDigit c = some ((0xAABBCCDDEEFF#48).extractLsb' (44 - 4 * j) 4).toNat :=
  ⟨rfl, by decide +kernel, spells (by decide +kernel)⟩

theorem witness_O45_refused :
    ("AABBCCDDEEF".toList.length ≠ 12) ∧ hexDigit 'G' = none ∧ 'G' ∈ "AABBCCDDEEFG".toList ∧
    'G' ∉ "0123456789ABCDEFabcdef".toList ∧ "0123456789abcdef".toList[15]? = some 'f' ∧ "0123456789ABCDEF".toList[0]? = some '0' := by
  decide +kernel

theorem witness_O45_digits : ∀ c ∈ "1122334455Ff".toList, hexDigit c ≠ none := fun c hc =>
  of_decide_eq_true (List.all_eq_true.1
    (by decide +kernel : ("1122334455Ff".toList.all fun c => decide (hexDigit c ≠ none)) = true) c hc)

/-- A record with both MACs and a capture of 65 ms. -/
def goodRecord : List (Text × Text) :=
  [("destMac".toList, "AABBCCDDEEFF".toList), ("captureDurationMs".toList, "65".toList), ("srcMac".toList, "112233445566".toList)]

/-- A record whose only key is an integer out of range. -/
def badRecord : List (Text × Text) := [("lineRateGbps".toList, "4294967296".toList)]

theorem witness_O46_program :
    (∀ key ∈ integerKeys ++ macKeys, "comment".toList ≠ key.toList) ∧ (result (loaderWrites (some goodRecord))).isSome = true ∧
    (State.reset.withSchedule [.record none]).schedule = .record none :: [] ∧ refusal (loaderWrites none) = some .configurationError ∧
    (State.reset.withSchedule [.record (some goodRecord)]).schedule = .record (some goodRecord) :: [] := by
  decide

/-- The good record holds no key twice, gives every integer register a value, and both addresses. -/
theorem witness_O46_good :
    (goodRecord.map Prod.fst).Nodup ∧ (∀ key ∈ integerKeys, ∃ v, GivesInt goodRecord key v) ∧
    ∀ key ∈ macKeys, ∃ m, GivesMac goodRecord key m := by
  refine ⟨by decide, fun key hk => ?_, fun key hk => ?_⟩
  · simp only [integerKeys, List.mem_cons, List.not_mem_nil, or_false] at hk
    rcases hk with rfl | rfl | rfl | rfl | rfl | rfl
    case inr.inl => exact ⟨65#32, .inr ⟨"65".toList, by simp [goodRecord], by decide⟩⟩
    all_goals exact ⟨0#32, .inl ⟨rfl, by intro t ht; simp [goodRecord] at ht⟩⟩
  · simp only [macKeys, List.mem_cons, List.not_mem_nil, or_false] at hk
    rcases hk with rfl | rfl
    · exact ⟨0xAABBCCDDEEFF#48, "AABBCCDDEEFF".toList, by simp [goodRecord], by decide, spells (by decide)⟩
    · exact ⟨0x112233445566#48, "112233445566".toList, by simp [goodRecord], by decide, spells (by decide)⟩

/-- The bad record holds no key twice, gives the line rate no value, and no address; the empty record gives every integer register
0 and no address; and the bad value beside both addresses. -/
theorem witness_O46_bad :
    (badRecord.map Prod.fst).Nodup ∧ (¬∀ key ∈ integerKeys, ∃ v, GivesInt badRecord key v) ∧
    (¬∀ key ∈ macKeys, ∃ m, GivesMac badRecord key m) ∧ (∀ key ∈ integerKeys, ∃ v, GivesInt [] key v) ∧
    (¬∀ key ∈ macKeys, ∃ m, GivesMac [] key m) ∧
    ((badRecord ++ goodRecord).map Prod.fst).Nodup ∧ (¬∀ key ∈ integerKeys, ∃ v, GivesInt (badRecord ++ goodRecord) key v) ∧
    ∀ key ∈ macKeys, ∃ m, GivesMac (badRecord ++ goodRecord) key m := by
  have big : ∀ v : Word, decimalValue "4294967296".toList ≠ some v.toNat := fun v h => by
    have e : decimalValue "4294967296".toList = some 4294967296 := by decide
    rw [e, Option.some.injEq] at h
    omega
  have noInt : ∀ kvs : List (Text × Text), ("lineRateGbps".toList, "4294967296".toList) ∈ kvs →
      (∀ t, ("lineRateGbps".toList, t) ∈ kvs → t = "4294967296".toList) →
      ¬∀ key ∈ integerKeys, ∃ v, GivesInt kvs key v := fun kvs h0 h1 h => by
    obtain ⟨v, ⟨-, hn⟩ | ⟨t, ht, hv⟩⟩ := h "lineRateGbps" (by simp [integerKeys])
    · exact hn _ h0
    · rw [h1 t ht] at hv
      exact big v hv
  refine ⟨by decide, noInt _ (by simp [badRecord]) (by simp [badRecord]), fun h => ?_, fun key _ => ⟨0#32, .inl ⟨rfl, by simp⟩⟩,
    fun h => ?_, by decide, noInt _ (by simp [badRecord]) (by simp [badRecord, goodRecord]), fun key hk => ?_⟩
  · obtain ⟨m, t, ht, -⟩ := h "destMac" (by simp [macKeys])
    simp [badRecord] at ht
  · obtain ⟨m, t, ht, -⟩ := h "destMac" (by simp [macKeys])
    simp at ht
  · obtain ⟨m, t, ht, hm⟩ := witness_O46_good.2.2 key hk
    exact ⟨m, t, List.mem_append_right _ ht, hm⟩

theorem witness_O47 : (⟨4#3, 0xFB555555#32⟩ : Beat).nb.toNat ≤ 4 ∧ (⟨1#3, 0x87000000#32⟩ : Beat).nb.toNat ≤ 4 := by decide

theorem witness_O47_digits : TextStyle.spec.digits.length = 16 := by decide

theorem witness_O49_operands :
    (0x80#8).extractLsb' 0 2 = 0#2 ∧ (0x01#8).extractLsb' 0 2 ≠ 0#2 ∧ (-1 : Int) < 0 ∧ (2 : Int) ^ 32 ≤ 4294967296 ∧
    "0aF1".toList.length = 2 * [0x0A#8, 0xF1#8].length ∧ "0A1".toList.length % 2 = 1 ∧ 'G' ∈ "0G".toList ∧ hexDigit 'G' = none := by
  decide

/-- The text `0aF1` is the octets 0x0A and 0xF1. -/
theorem witness_O49_hex : ∀ j o, [0x0A#8, 0xF1#8][j]? = some o → ∃ a b, "0aF1".toList[2 * j]? = some a ∧
    "0aF1".toList[2 * j + 1]? = some b ∧ hexDigit a = some (o.extractLsb' 4 4).toNat ∧ hexDigit b = some (o.extractLsb' 0 4).toNat
  | 0, _, h => by cases h; exact ⟨'0', 'a', by decide⟩
  | 1, _, h => by cases h; exact ⟨'F', '1', by decide⟩
  | n + 2, _, h => by simp at h

/-- A text that spells an address, and one that spells none. -/
theorem witness_O49_mac : SpellsMac "aabbccDDEEff".toList 0xAABBCCDDEEFF#48 ∧ ∀ m, ¬SpellsMac "AABBCCDDEEF".toList m :=
  ⟨witness_O45_address.2, fun _ h => absurd h.1 (by decide)⟩

/-- A branch to the second operation of a script goes to the line where its expansion begins, here 2. -/
theorem witness_O49_branch :
    result (assemble [.rd64 .framesSent, .stop, .bne .status 3 2 1]) =
      some [.transaction 0x04400000000#41, .transaction 0x04800000000#41, .transaction 0x10000000002#41,
        .branch 0x00400000000#41 3#32 2#32 2] := by
  decide

/-- A script whose operations all expand, and one with an operation that is refused. -/
theorem witness_O49_script :
    (∀ n o e, [ScriptOp.stop][n]? = some o → [[AgentLine.transaction 0x10000000002#41]][n]? = some e → expandOp n o = .ok e) ∧
    [ScriptOp.crcHex "0".toList][0]? = some (.crcHex "0".toList) ∧ refusal (expandOp 0 (.crcHex "0".toList)) = some .malformedHex ∧
    refusal (assemble [.crcHex "0".toList]) = some .malformedHex ∧
    (State.reset.withSchedule [.script [.crcHex "0".toList]]).schedule = .script [.crcHex "0".toList] :: [] := by
  refine ⟨fun n o e ho he => ?_, by decide⟩
  match n with
  | 0 => cases ho; cases he; rfl
  | _ + 1 => simp at ho

/-- Positions in every phase, at which the clauses of R35 apply. -/
theorem witness_O50 :
    atBurstTop.Inv ∧ atFrameTop.Inv ∧ (atFrame 24).Inv ∧ (atIfg 0).Inv ∧ (atEob 0).Inv ∧ (atIfg 1).Inv ∧
    (atIfg 0).seq.phase = .ifg ∧ (atIfg 0).seq.fill = 0#64 ∧ (atEob 0).seq.phase = .eob ∧ (atEob 0).seq.fill = 0#64 ∧
    (atIfg 1).seq.phase = .ifg ∧ (atIfg 1).seq.fill ≠ 0#64 ∧ atBurstTop.seq.phase = .burstTop ∧
    atFrameTop.seq.phase = .frameTop ∧ (atFrame 24).seq.phase = .frame ∧ (idleWith p4).seq.phase = .idle ∧
    (idleWith p4).start.seq.phase = .burstTop ∧ ((atFrame 24).turn true).seq.phase = .ifg :=
  ⟨inv_at_burst_top, inv_at_frame_top, inv_at_last_beat, inv_at_ifg_end, inv_at_eob_end, inv_at_ifg, by decide⟩

end Sys2Proof.Machine.Tests
end

section
/-! The host CRC port and the sequencer share nothing (10_state R31): a turn commutes with a change of `hcrc`. -/

namespace Sys2Proof.Machine

@[simp] theorem State.wantsSink_withHcrc (s : State) (v : Word) : (s.withHcrc v).wantsSink = s.wantsSink := rfl

/-- No step's conditions read `hcrc`, and no step's branches write it. -/
theorem State.candidate_withHcrc (s : State) (v : Word) : (s.withHcrc v).candidate = s.candidate.withHcrc v := by
  unfold State.candidate
  rw [State.withHcrc_seq]
  cases s.seq.phase with
  | idle => rfl
  | burstTop => simp only [State.stepBurstTop, apply_ite (State.withHcrc · v)]; rfl
  | frameTop => simp only [State.stepFrameTop, apply_ite (State.withHcrc · v)]; rfl
  | frame => simp only [State.stepFrame, apply_ite (State.withHcrc · v)]; rfl
  | ifg => simp only [State.stepIfg, apply_ite (State.withHcrc · v)]; rfl
  | eob => simp only [State.stepEob, apply_ite (State.withHcrc · v)]; rfl

/-- The CRC register of the host port is no part of what a turn reads or writes. -/
@[simp] theorem State.turn_withHcrc (s : State) (v : Word) (ready : Bool) :
    (s.withHcrc v).turn ready = (s.turn ready).withHcrc v := by
  simp only [State.turn, State.wantsSink_withHcrc, State.candidate_withHcrc, apply_ite (State.withHcrc · v)]

theorem State.turn_hcrc (s : State) (ready : Bool) : (s.turn ready).hcrc = s.hcrc := by
  obtain ⟨_, _, _, _, hcrc, _⟩ := s.turn_keeps ready
  exact hcrc

@[simp] theorem State.writeCtrl_hcrc (s : State) (x : Word) : (s.writeCtrl x).hcrc = s.hcrc := by
  obtain ⟨_, e⟩ | ⟨_, _, e⟩ | ⟨_, _, e⟩ := s.writeCtrl_cases x <;> rw [e] <;> simp

/-- Of the bus operations only the two writes of the port change `hcrc`. -/
theorem exec_hcrc_ne {i : Instr} {s s' : State} (h : exec i s = .next s') (hne : s'.hcrc ≠ s.hcrc) :
    ∃ x, i = .wrCrcInit x ∨ i = .wrCrcData x := by
  obtain ⟨_, e⟩ | e | ⟨_, _, e⟩ | ⟨hi, _⟩ | ⟨_, _, e⟩ := exec_cases h
  case inr.inr.inr.inl => exact hi
  all_goals exact absurd (by simp [e]) hne

end Sys2Proof.Machine

open Sys2Proof Sys2Proof.Machine

/-- Settles O20: a turn commutes with a change of `hcrc`, the port's operations do not look at the phase, and `exec_cases` leaves
no other writer. -/
theorem crcPortAndSequencerAreIndependent : Obligations.CrcPortAndSequencerAreIndependent :=
  ⟨fun s ready v => ⟨s.turn_hcrc ready, s.turn_withHcrc v ready⟩,
    fun _ _ => ⟨rfl, rfl, rfl, rfl, rfl, rfl⟩,
    fun _ _ _ => exec_hcrc_ne,
    rfl, rfl⟩

end

section
/-! `FRAMES_SENT` (10_state R29): how a step changes it, and the bound that keeps it from wrapping. -/

namespace Sys2Proof.Machine

/-! ### The bound -/

/-- START refuses a run whose total reaches 2^64 (42_burst_plan R93). -/
theorem State.Inv.total_lt {s : State} (h : s.Inv) (hb : s.busy = true) : s.totalBursts * s.framesPerBurst < 2 ^ 64 := by
  obtain ⟨_, hr, _, hplan⟩ := h.run_checked hb
  have hB : s.totalBursts = planBursts s.cfg := by rw [State.totalBursts, hplan, planRegs_totalBursts]
  have := of_decide_eq_false hr
  rw [hB, State.framesPerBurst]
  omega

/-- Before the last burst has ended, the frames of the current burst still fit into the total. -/
theorem State.Inv.burst_fits {s : State} (h : s.Inv) (hb : s.busy = true) (hp : s.seq.phase ≠ .burstTop) :
    s.seq.burst.toNat * s.framesPerBurst + s.framesPerBurst ≤ s.totalBursts * s.framesPerBurst := by
  rw [← Nat.succ_mul]
  exact Nat.mul_le_mul_right _ ((h.burst_bound hb).2 hp)

theorem State.Inv.framesDone_le {s : State} (h : s.Inv) (hb : s.busy = true) :
    s.framesDone ≤ s.totalBursts * s.framesPerBurst := by
  obtain ⟨hle, hlt, _⟩ := h.frame_bound hb
  have fits := h.burst_fits hb
  unfold State.framesDone
  cases hp : s.seq.phase <;> dsimp only
  case idle => exact absurd hp (s.busy_eq_true.mp hb)
  case burstTop => exact Nat.mul_le_mul_right _ (h.burst_bound hb).1
  case ifg => have := hlt (.inr hp); have := fits (by simp [hp]); omega
  all_goals have := fits (by simp [hp]); omega

/-- Inside a frame, that frame is still to be counted. -/
theorem State.Inv.framesSent_lt_of_frame {s : State} (h : s.Inv) (hp : s.seq.phase = .frame) :
    s.framesSent.toNat < s.totalBursts * s.framesPerBurst := by
  have hb : s.busy = true := by simp [hp]
  obtain ⟨_, hlt, _⟩ := h.frame_bound hb
  have := hlt (.inl hp)
  have := h.burst_fits hb (by simp [hp])
  have := h.sent_counts hb
  simp only [State.framesDone, hp] at this
  omega

/-! ### What a step does to it -/

theorem State.not_frame_and_ifg (s : State) : ¬ (s.seq.phase = .frame ∧ s.seq.phase = .ifg) := by
  rintro ⟨hf, hi⟩
  cases hf.symm.trans hi

/-- A turn counts a frame exactly when it goes from `FRAME` to `IFG`, which is on the frame's last beat (43_serializer R104). -/
theorem State.turn_framesSent (s : State) (ready : Bool) :
    (s.turn ready).framesSent =
      if s.seq.phase = .frame ∧ (s.turn ready).seq.phase = .ifg then s.framesSent + 1#64 else s.framesSent := by
  obtain ⟨_, e⟩ | ⟨hp, e⟩ | ⟨hp, e⟩ | ⟨hp, _, e⟩ | ⟨hp, _, e⟩ | ⟨hp, _, e⟩ | ⟨hp, _, _, e⟩ := s.turn_cases ready <;> rw [e]
  · exact (if_neg s.not_frame_and_ifg).symm
  · rw [if_neg (by simp [hp])]
    obtain ⟨_, e⟩ | ⟨_, _, e⟩ | ⟨_, _, e⟩ := s.stepBurstTop_cases <;> rw [e] <;> rfl
  · rw [if_neg (by simp [hp])]
    obtain ⟨_, e⟩ | ⟨_, _, e⟩ | ⟨_, _, e⟩ := s.stepFrameTop_cases <;> rw [e] <;> rfl
  · obtain ⟨_, e⟩ | ⟨_, e⟩ := s.stepFrame_cases <;> rw [e]
    · rw [if_neg (by simp [hp])]; rfl
    · rw [if_pos ⟨hp, rfl⟩]; rfl
  · rw [if_neg (by simp [hp])]; rfl
  · rw [if_neg (by simp [hp])]; rfl
  · obtain hp | hp := hp <;> rw [if_neg (by simp [hp])] <;> rfl

theorem State.turn_framesSent_of_idle {s : State} (h : s.busy = false) (ready : Bool) :
    (s.turn ready).framesSent = s.framesSent := by
  rw [s.turn_framesSent, if_neg (by simp [s.busy_eq_false.mp h])]

/-- During a run a CTRL write can only make a stop pending (44_register_ops R114). -/
theorem State.writeCtrl_of_busy {s : State} (h : s.busy = true) (x : Word) :
    s.writeCtrl x = s.withSeq { s.seq with stopReq := s.seq.stopReq || ctrlStop x } := by
  obtain ⟨_, e⟩ | ⟨hi, _⟩ | ⟨hi, _⟩ := s.writeCtrl_cases x
  · exact e
  all_goals cases h.symm.trans hi

/-- During a run every step but a reset counts a frame exactly when it goes from `FRAME` to `IFG`. -/
theorem step_framesSent_of_busy {s s' : State} (hb : s.busy = true) (h : step s = .next s')
    (hr : ∀ es, s.schedule ≠ .reset :: es) :
    s'.framesSent = if s.seq.phase = .frame ∧ s'.seq.phase = .ifg then s.framesSent + 1#64 else s.framesSent := by
  obtain ⟨u, a, es, hu, rfl⟩ := step_effect h
  cases hu with
  | none => exact (if_neg s.not_frame_and_ifg).symm
  | cfg _ hi => cases hb.symm.trans hi
  | hcrc _ => exact (if_neg s.not_frame_and_ifg).symm
  | ctrl x _ => rw [State.writeCtrl_of_busy hb]; exact (if_neg s.not_frame_and_ifg).symm
  | turn ready _ _ => exact s.turn_framesSent ready
  | reset es hs => exact absurd hs (hr es)

/-- The same as a number: under the invariant the addition does not wrap. -/
theorem State.Inv.step_framesSent_toNat {s s' : State} (hinv : s.Inv) (hb : s.busy = true) (h : step s = .next s')
    (hr : ∀ es, s.schedule ≠ .reset :: es) :
    s'.framesSent.toNat = s.framesSent.toNat + if s.seq.phase = .frame ∧ s'.seq.phase = .ifg then 1 else 0 := by
  rw [step_framesSent_of_busy hb h hr]
  split
  next hc =>
    have := hinv.framesSent_lt_of_frame hc.1
    have := hinv.total_lt hb
    rw [BitVec.toNat_add_of_lt (by simp; omega)]
    rfl
  next => rfl

end Sys2Proof.Machine

open Sys2Proof Sys2Proof.Machine

/-- Settles O40, from the bound on the frames done (the invariant) and from what one step does to the counter. -/
theorem framesSentCountsFramesAndNeverWraps : Obligations.FramesSentCountsFramesAndNeverWraps :=
  ⟨State.start_framesSent,
    fun _ h hb => ⟨(h.sent_counts hb).trans_le (h.framesDone_le hb), h.total_lt hb⟩,
    fun _ _ h hb => h.step_framesSent_toNat hb,
    fun _ ready hb => State.turn_framesSent_of_idle hb ready,
    rfl⟩

end

section
/-! The output stream (20_memory R50): what a step appends to it, and that an emitting turn holds while the sink is not ready. -/

namespace Sys2Proof.Machine

/-! ### The beats a turn appends -/

/-- Only a turn with a ready sink appends, and it appends one beat: the next one of the frame, or a filler beat. -/
theorem State.turn_stream_cases (s : State) (ready : Bool) :
    (s.turn ready).stream = s.stream ∨
    ready = true ∧ ∃ b, (s.turn ready).stream = s.stream ++ [b] ∧ (s.seq.phase = .frame ∧ b = s.nextBeat ∨ b = fillerBeat) := by
  obtain ⟨_, e⟩ | ⟨_, e⟩ | ⟨_, e⟩ | ⟨hp, hr, e⟩ | ⟨_, _, e⟩ | ⟨_, _, e⟩ | ⟨_, _, hr, e⟩ := s.turn_cases ready <;> rw [e]
  · exact .inl rfl
  · obtain ⟨_, e⟩ | ⟨_, _, e⟩ | ⟨_, _, e⟩ := s.stepBurstTop_cases <;> rw [e] <;> exact .inl rfl
  · obtain ⟨_, e⟩ | ⟨_, _, e⟩ | ⟨_, _, e⟩ := s.stepFrameTop_cases <;> rw [e] <;> exact .inl rfl
  · obtain ⟨_, e⟩ | ⟨_, e⟩ := s.stepFrame_cases <;> rw [e] <;> exact .inr ⟨hr, _, rfl, .inl ⟨hp, rfl⟩⟩
  · exact .inl rfl
  · exact .inl rfl
  · exact .inr ⟨hr, _, rfl, .inr rfl⟩

/-- Inside a frame at least one octet is left to send (10_state R35 (d)). -/
theorem State.Inv.laneCount_pos {s : State} (h : s.Inv) (hp : s.seq.phase = .frame) : 0 < s.laneCount := by
  have hlt := ((h.byte_bound (by simp [hp])).2 hp).1
  unfold State.laneCount
  omega

theorem State.Inv.nextBeat_nb {s : State} (h : s.Inv) (hp : s.seq.phase = .frame) :
    1 ≤ s.nextBeat.nb.toNat ∧ s.nextBeat.nb.toNat ≤ 4 := by
  have hpos := h.laneCount_pos hp
  have hle : s.laneCount ≤ 4 := Nat.min_le_left _ _
  rw [show s.nextBeat.nb.toNat = _ from beatCount_toNat s.padToWord s.laneCount hle]
  split <;> omega

/-! ### The stream over a step -/

@[simp] theorem State.writeCtrl_stream (s : State) (x : Word) : (s.writeCtrl x).stream = s.stream := by
  obtain ⟨_, e⟩ | ⟨_, _, e⟩ | ⟨_, _, e⟩ := s.writeCtrl_cases x <;> rw [e] <;> simp

/-- Only a sequencer turn with a ready sink appends to the stream, and it appends one beat. -/
theorem step_stream_cases {s s' : State} (h : step s = .next s') :
    s'.stream = s.stream ∨
    ∃ b es, s.schedule = .sequencerTurn true :: es ∧ s'.stream = s.stream ++ [b] ∧
      (s.seq.phase = .frame ∧ b = s.nextBeat ∨ b = fillerBeat) := by
  obtain ⟨u, a, _, hu, rfl⟩ := step_effect h
  cases hu with
  | none => exact .inl rfl
  | cfg _ _ => exact .inl rfl
  | hcrc _ => exact .inl rfl
  | ctrl x _ => exact .inl (s.writeCtrl_stream x)
  | reset _ _ => exact .inl rfl
  | turn ready es hs =>
    obtain he | ⟨rfl, b, hb⟩ := s.turn_stream_cases ready
    · exact .inl he
    · exact .inr ⟨b, es, hs, hb⟩

/-! ### Holding -/

theorem State.wantsSink_iff (s : State) :
    s.wantsSink = true ↔ s.seq.phase = .frame ∨ ((s.seq.phase = .ifg ∨ s.seq.phase = .eob) ∧ s.seq.fill ≠ 0#64) := by
  unfold State.wantsSink
  cases s.seq.phase <;> simp

theorem State.turn_of_holds {s : State} (h : s.wantsSink = true) : s.turn false = s := by simp [State.turn, h]

/-- The step whose next event is a sequencer's turn. -/
theorem step_of_turn_next {s : State} {ready : Bool} {es : List Event} (h : s.schedule = .sequencerTurn ready :: es) :
    step s = .next ((s.turn ready).withSchedule es) := by
  have e := step_turn s ready es
  rwa [← h] at e

end Sys2Proof.Machine

open Sys2Proof Sys2Proof.Machine

/-- Settles O29: of the six effects of a step only a turn appends, a frame beat has 1 to 4 octets by the bound on `seq.byte`, and a
turn that waits for the sink leaves the block as it is. -/
theorem streamOnlyGrowsByOneBeatATurn : Obligations.StreamOnlyGrowsByOneBeatATurn := by
  intro s s' h
  constructor
  · obtain he | ⟨b, es, hs, he, hb⟩ := step_stream_cases h
    · exact ⟨[], by simp [he]⟩
    · refine ⟨[b], he, Nat.le_refl 1, fun _ => ⟨es, hs⟩, fun hinv b' hb' => ?_⟩
      obtain rfl := List.mem_singleton.mp hb'
      obtain ⟨hp, rfl⟩ | rfl := hb
      · exact hinv.nextBeat_nb hp
      · obtain ⟨hpos, hle, _⟩ := fillerBeat_wellFormed
        exact ⟨hpos, hle⟩
  · intro es hs hw
    rw [step_of_turn_next hs, State.turn_of_holds (s.wantsSink_iff.mpr hw)] at h
    cases h
    rfl

end

section
/-! Repeating a bus operation (20_memory R49): the kinds of operations by what they do to every state, and which of them give
nothing new a second time. -/

namespace Sys2Proof.Machine

/-! ### Reads -/

/-- In every state the operation answers with a value of the block, and the record of earlier reads is no part of that value. -/
def ReadsValue (i : Instr) (f : State → Word) : Prop :=
  (∀ s, exec i s = respond (f s) s) ∧ ∀ s h, f (s.withAgent h) = f s

theorem readOf_readsValue (r : RegName) : ∃ f, ReadsValue (.readOf r) f := by
  cases r <;> exact ⟨_, fun _ => rfl, fun _ _ => rfl⟩

theorem rdRsvd_readsValue (a : Offset) : ReadsValue (.rdRsvd a) fun _ => 0#32 := ⟨fun _ => rfl, fun _ _ => rfl⟩

/-- A read answers, and repeated it answers the same. -/
theorem ReadsValue.answers_again {i : Instr} {f : State → Word} (h : ReadsValue i f) (s : State) :
    Answers i s (f s) ∧ ∀ s1, exec i s = .next s1 → Answers i s1 (f s) := by
  obtain ⟨hexec, hagent⟩ := h
  refine ⟨hexec s, fun s1 h1 => ?_⟩
  rw [hexec s] at h1
  cases h1
  have e := hexec (s.withAgent { s.agent with reads := s.agent.reads ++ [f s] })
  rwa [hagent] at e

/-- `ADDR[1:0]` of a word. -/
theorem Transaction.aligned_addr (t : Transaction) : Offset.aligned t.addr = (t.extractLsb' 32 2 == 0#2) := by
  have e : t.addr.extractLsb' 0 2 = t.extractLsb' 32 2 := by
    apply BitVec.eq_of_getLsbD_eq
    intro i hi
    simp [Transaction.addr, hi, show i < 8 by omega]
  rw [Offset.aligned, e]

/-- An aligned word with `WE = 0` is a read of a register or of a reserved offset (30_encoding R58). -/
theorem decode_read {t : Transaction} (hwe : t.we = false) (ha : Offset.aligned t.addr = true) :
    (∃ r, decode t = .readOf r) ∨ ∃ a, decode t = .rdRsvd a := by
  rw [decode, if_pos ha, hwe]
  cases RegName.ofOffset t.addr with
  | some r => exact .inl ⟨r, rfl⟩
  | none => exact .inr ⟨t.addr, rfl⟩

theorem decode_read_readsValue {t : Transaction} (hwe : t.getLsbD 40 = false) (ha : t.extractLsb' 32 2 = 0#2) :
    ∃ f, ReadsValue (decode t) f := by
  obtain ⟨r, e⟩ | ⟨a, e⟩ := decode_read hwe (by simp [Transaction.aligned_addr, ha]) <;> rw [e]
  · exact readOf_readsValue r
  · exact ⟨_, rdRsvd_readsValue a⟩

/-! ### Every operation by its kind -/

/-- What kind of operation it is, by what it does to every state. -/
inductive OpKind (i : Instr) : Prop where
  /-- A read. -/
  | read (f : State → Word) : ReadsValue i f → OpKind i
  /-- A configuration write: what it stores does not depend on what was stored before in the same place. -/
  | locked (store : TrafficProfile → TrafficProfile) :
      (∀ s, exec i s = writeLocked store s) → (∀ c, store (store c) = store c) → OpKind i
  /-- An ignored write. -/
  | ignored : (∀ s, exec i s = ignoreWrite s) → OpKind i
  | crcInit (x : Word) : i = .wrCrcInit x → OpKind i
  | crcData (x : Word) : i = .wrCrcData x → OpKind i
  | ctrl (x : Word) : i = .wrCtrl x → OpKind i
  | misaligned (we : Bool) (a : Offset) (x : Word) : i = .misaligned we a x → OpKind i

theorem opKind (i : Instr) : OpKind i := by
  cases i
  case wrCtrl x => exact .ctrl x rfl
  case wrCrcInit x => exact .crcInit x rfl
  case wrCrcData x => exact .crcData x rfl
  case misaligned we a x => exact .misaligned we a x rfl
  case wrLineRateGbps x => exact .locked ({ · with lineRateGbps := x }) (fun _ => rfl) fun _ => rfl
  case wrCaptureMs x => exact .locked ({ · with captureMs := x }) (fun _ => rfl) fun _ => rfl
  case wrMinIfgBytes x => exact .locked ({ · with minIfgBytes := x }) (fun _ => rfl) fun _ => rfl
  case wrDestMacHi x => exact .locked ({ · with destMacHi := macHiField x }) (fun _ => rfl) fun _ => rfl
  case wrDestMacLo x => exact .locked ({ · with destMacLo := x }) (fun _ => rfl) fun _ => rfl
  case wrSrcMacHi x => exact .locked ({ · with srcMacHi := macHiField x }) (fun _ => rfl) fun _ => rfl
  case wrSrcMacLo x => exact .locked ({ · with srcMacLo := x }) (fun _ => rfl) fun _ => rfl
  case wrMaxFrameBytes x => exact .locked ({ · with maxFrameBytes := x }) (fun _ => rfl) fun _ => rfl
  case wrFramesPerBurst x => exact .locked ({ · with framesPerBurst := x }) (fun _ => rfl) fun _ => rfl
  case wrBurstPeriodUs x => exact .locked ({ · with burstPeriodUs := x }) (fun _ => rfl) fun _ => rfl
  case wrStatus | wrTotalBurstsLo | wrTotalBurstsHi | wrIfgWords | wrEobWordsLo | wrEobWordsHi | wrFramesSentLo |
      wrFramesSentHi | wrLastFcs | wrCrcResult | wrRsvd =>
    exact .ignored fun _ => rfl
  all_goals exact .read _ ⟨fun _ => rfl, fun _ _ => rfl⟩

@[simp] theorem State.withCfg_withCfg (s : State) (c c' : TrafficProfile) : (s.withCfg c).withCfg c' = s.withCfg c' := rfl

/-- A configuration write stores the same again, or is ignored again: it does not end the run that locks it. -/
theorem writeLocked_again {store : TrafficProfile → TrafficProfile} (hstore : ∀ c, store (store c) = store c) {s s1 : State}
    (h : writeLocked store s = .next s1) : writeLocked store s1 = .next s1 := by
  rw [writeLocked_eq] at h ⊢
  cases hb : s.busy <;> rw [hb] at h <;> cases h
  · simp [hb, hstore]
  · simp [hb]

/-- A write other than to CTRL and CRC_DATA changes nothing when it is run again. A read is set aside by what it records. -/
theorem exec_again {i : Instr} {s s1 : State} (h : exec i s = .next s1) (hctrl : ∀ x, i ≠ .wrCtrl x)
    (hdata : ∀ x, i ≠ .wrCrcData x) (hagent : s1.agent = s.agent) : exec i s1 = .next s1 := by
  cases opKind i with
  | read f hf =>
    rw [hf.1] at h
    cases h
    have hreads : s.agent.reads ++ [f s] = s.agent.reads := congrArg HostAgent.reads hagent
    simp at hreads
  | locked store hexec hstore =>
    rw [hexec] at h ⊢
    exact writeLocked_again hstore h
  | ignored hexec => exact hexec s1
  | crcInit x hi => subst hi; cases h; rfl
  | crcData x hi => exact absurd hi (hdata x)
  | ctrl x hi => exact absurd hi (hctrl x)
  | misaligned we a x hi => subst hi; cases h

/-- The block after reset with a configuration that START accepts: a rate and a period of 1, and no burst to send. -/
def State.startable : State := State.reset.withCfg { TrafficProfile.zero with lineRateGbps := 1#32, burstPeriodUs := 1#32 }

end Sys2Proof.Machine

open Sys2Proof Sys2Proof.Machine

/-- Settles O37, from the kinds of operations. The CRC_DATA write folds another octet into `hcrc`; the CTRL write has START and STOP
set, so the first one begins a run and the second one makes a stop pending. -/
theorem readsAreIdempotentAndWritesAct : Obligations.ReadsAreIdempotentAndWritesAct := by
  refine ⟨fun t s hwe ha => ?_, fun i s s1 h hi => exec_again h (fun x => (hi x).1) (fun x => (hi x).2), ?_, ?_⟩
  · obtain ⟨f, hf⟩ := decode_read_readsValue hwe ha
    exact ⟨f s, hf.answers_again s⟩
  · exact ⟨0x31#32, State.reset, _, _, rfl, rfl, by decide +kernel⟩
  · exact ⟨0x3#32, State.startable, _, _, rfl, rfl, fun e => absurd (congrArg (·.seq.stopReq) e) (by decide)⟩

end

section
/-! The opcode map (30_encoding R61) and the one refused transaction (R59): decoding by offset, and which operations complete. -/

namespace Sys2Proof.Machine

/-- Both words of a register's row of the opcode map. -/
theorem decode_words_at_register (x : Word) (r : RegName) :
    decode (0#1 ++ r.offset ++ x) = .readOf r ∧ decode (1#1 ++ r.offset ++ x) = .writeOf x r :=
  ⟨decode_register false r x, decode_register true r x⟩

/-- Both words of a reserved offset. -/
theorem decode_words_at_reserved (x : Word) {a : Offset} (h : Offset.reserved a = true) :
    decode (0#1 ++ a ++ x) = .rdRsvd a ∧ decode (1#1 ++ a ++ x) = .wrRsvd a x :=
  ⟨decode_reserved false a x h, decode_reserved true a x h⟩

theorem decode_of_misaligned {t : Transaction} (h : Offset.aligned t.addr = false) :
    decode t = .misaligned t.we t.addr t.wdata := by
  simp [decode, h]

/-- An aligned word is a read or a write of a register or of a reserved offset (30_encoding R58). -/
theorem decode_ne_misaligned {t : Transaction} (h : Offset.aligned t.addr = true) (we : Bool) (a : Offset) (x : Word) :
    decode t ≠ .misaligned we a x := by
  rw [decode, if_pos h]
  cases RegName.ofOffset t.addr with
  | none => cases t.we <;> nofun
  | some r => cases t.we <;> cases r <;> nofun

/-- Every operation but `MISALIGNED` completes, in every state. -/
theorem exec_completes {i : Instr} (h : ∀ we a x, i ≠ .misaligned we a x) (s : State) : ∃ s', exec i s = .next s' := by
  cases opKind i with
  | read f hf => exact ⟨_, hf.1 s⟩
  | locked store hexec _ => exact ⟨_, (hexec s).trans (writeLocked_eq store s)⟩
  | ignored hexec => exact ⟨s, hexec s⟩
  | crcInit x hi => subst hi; exact ⟨_, rfl⟩
  | crcData x hi => subst hi; exact ⟨_, rfl⟩
  | ctrl x hi => subst hi; exact ⟨_, rfl⟩
  | misaligned we a x hi => exact absurd hi (h we a x)

end Sys2Proof.Machine

open Sys2Proof Sys2Proof.Machine

/-- Settles O3, register by register of the map; an aligned offset from `0x5C` up is a reserved one. -/
theorem opcodeMapSelectsTheOperation : Obligations.OpcodeMapSelectsTheOperation := by
  intro x
  have row := decode_words_at_register x
  refine ⟨row .ctrl, row .status, row .lineRateGbps, row .captureMs, row .minIfgBytes, row .destMacHi, row .destMacLo,
    row .srcMacHi, row .srcMacLo, row .maxFrameBytes, row .framesPerBurst, row .burstPeriodUs, row .totalBurstsLo,
    row .totalBurstsHi, row .ifgWords, row .eobWordsLo, row .eobWordsHi, row .framesSentLo, row .framesSentHi, row .lastFcs,
    row .crcInit, row .crcData, row .crcResult, fun a ha hge => decode_words_at_reserved x ?_⟩
  simp [Offset.reserved, Offset.aligned, ha, hge]

/-- Settles O5: a word decodes to `MISALIGNED` exactly where `ADDR[1:0]` is not `00`, and every other operation completes. -/
theorem misalignedTransactionsAreTheOnlyRefusedOnes : Obligations.MisalignedTransactionsAreTheOnlyRefusedOnes := by
  refine ⟨fun t s h => ?_, fun _ _ _ _ => rfl, fun t s h => ?_⟩
  · rw [decode_of_misaligned (by simp [Transaction.aligned_addr, h])]
    rfl
  · exact exec_completes (decode_ne_misaligned (by simp [Transaction.aligned_addr, h])) s

end

section
/-! The beats a turn emits are those 30_encoding R64 allows: the byte count and the lanes of the next frame beat, and when it is
short. -/

namespace Sys2Proof.Machine

theorem frameLane_length (p : Params) (c : TrafficProfile) (acc : Word × List Byte) (i : Nat) :
    (frameLane p c acc i).2.length = acc.2.length + 1 := by
  unfold frameLane
  split <;> simp

/-- A frame step packs as many octets as it takes lanes. -/
theorem frameLanes_length (p : Params) (c : TrafficProfile) (f : Word) (k m : Nat) : (frameLanes p c f k m).2.length = m := by
  induction m with
  | zero => rfl
  | succ m ih => rw [frameLanes_succ, frameLane_length, ih]

theorem State.laneCount_le (s : State) : s.laneCount ≤ 4 := Nat.min_le_left _ _

/-- `NB` of the next frame beat: padding makes a short beat a full one (43_serializer R97). -/
theorem State.nextBeat_nb_toNat (s : State) :
    s.nextBeat.nb.toNat = if s.laneCount < 4 ∧ s.padToWord = true then 4 else s.laneCount :=
  beatCount_toNat s.padToWord s.laneCount s.laneCount_le

/-- Past the octets it holds, the lanes of the next frame beat are 0. -/
theorem State.nextBeat_lane (s : State) {j : Nat} (hj : s.laneCount ≤ j) (h4 : j < 4) : s.nextBeat.lane j = 0#8 := by
  have hlen : s.nextLanes.2.length ≤ j := by rwa [State.nextLanes, frameLanes_length]
  exact (octetAt_packLanes _ j h4).trans (List.getD_eq_default _ _ hlen)

/-- Under the invariant the next frame beat is one that 30_encoding R64 allows. -/
theorem State.Inv.nextBeat_wellFormed {s : State} (h : s.Inv) (hp : s.seq.phase = .frame) : s.nextBeat.wellFormed := by
  obtain ⟨hpos, hle⟩ := h.nextBeat_nb hp
  refine ⟨hpos, hle, fun j hj h4 => s.nextBeat_lane ?_ h4⟩
  rw [s.nextBeat_nb_toNat] at hj
  split at hj <;> omega

/-- A beat of fewer than 4 octets takes all that is left of a frame whose size is no multiple of 4, since `seq.byte` is one
(10_state R35 (d)). -/
theorem State.Inv.nextByte_of_short {s : State} (h : s.Inv) (hp : s.seq.phase = .frame) (hn : s.laneCount < 4) :
    s.nextByte = s.cfg.maxFrameBytes ∧ s.cfg.maxFrameBytes.toNat % 4 ≠ 0 := by
  obtain ⟨_, hbyte⟩ := h.byte_bound (by simp [hp])
  obtain ⟨hlt, hmod⟩ := hbyte hp
  unfold State.laneCount TrafficProfile.frameBytes at *
  have hsum : s.seq.byte.toNat + min 4 (s.cfg.maxFrameBytes.toNat - s.seq.byte.toNat) = s.cfg.maxFrameBytes.toNat := by omega
  refine ⟨?_, by omega⟩
  rw [State.nextByte, State.laneCount, TrafficProfile.frameBytes, hsum, BitVec.ofNat_toNat, BitVec.setWidth_eq]

/-- A turn that emits the frame's last beat goes on to the filler after the frame (43_serializer R104). -/
theorem State.turn_phase_of_last {s : State} (hp : s.seq.phase = .frame) (hl : s.nextByte = s.cfg.maxFrameBytes) :
    (s.turn true).seq.phase = .ifg := by
  have e : s.turn true = s.stepFrame := by simp [State.turn, State.candidate, hp]
  obtain ⟨hne, _⟩ | ⟨_, e'⟩ := s.stepFrame_cases
  · exact absurd hl hne
  · rw [e, e']; rfl

/-- A beat of fewer than 4 bytes is the last one of an unpadded frame. -/
theorem State.Inv.nextBeat_short {s : State} (h : s.Inv) (hp : s.seq.phase = .frame) (hnb : s.nextBeat.nb.toNat < 4) :
    s.padToWord = false ∧ s.cfg.maxFrameBytes.toNat % 4 ≠ 0 ∧ (s.turn true).seq.phase = .ifg := by
  rw [s.nextBeat_nb_toNat] at hnb
  split at hnb
  next => omega
  next hpad =>
    obtain ⟨hl, hmod⟩ := h.nextByte_of_short hp hnb
    exact ⟨by simpa [hnb] using hpad, hmod, State.turn_phase_of_last hp hl⟩

end Sys2Proof.Machine

open Sys2Proof Sys2Proof.Machine

/-- Settles O30: a turn appends nothing, the next beat of the frame, or a filler beat, and both beats are ones that R64 allows. -/
theorem emittedBeatsAreWellFormed : Obligations.EmittedBeatsAreWellFormed := by
  intro s ready hinv
  obtain he | ⟨rfl, b, he, ⟨hp, rfl⟩ | rfl⟩ := s.turn_stream_cases ready
  · exact .inl he
  · obtain ⟨hpos, hle, hlanes⟩ := hinv.nextBeat_wellFormed hp
    exact .inr ⟨_, he, hpos, hle, hlanes, fun hnb => ⟨hp, hinv.nextBeat_short hp hnb⟩, absurd hp, rfl⟩
  · obtain ⟨hpos, hle, hlanes⟩ := fillerBeat_wellFormed
    exact .inr ⟨_, he, hpos, hle, hlanes, fun hnb => absurd hnb (by decide), fun _ => rfl, rfl⟩

end

section
/-! The text of a beat (30_encoding R65): two digits an octet, and the digits of the octets that `NB` counts. -/

namespace Sys2Proof.Machine

@[simp] theorem renderOctet_length (st : TextStyle) (o : Byte) : (renderOctet st o).length = 2 := rfl

/-- The first `2 * n` digits of a word are those of its first `n` octets. -/
theorem take_renderOctets (st : TextStyle) (v : Word) (n : Nat) (h : n ≤ 4) :
    ((wordOctets v).flatMap (renderOctet st)).take (2 * n) =
      (List.range n).flatMap fun j => renderOctet st (v.extractLsb' (24 - 8 * j) 8) := by
  match n, h with
  | 0, _ => rfl
  | 1, _ => rfl
  | 2, _ => rfl
  | 3, _ => rfl
  | 4, _ => rfl

theorem renderBeat_eq (st : TextStyle) (b : Beat) (h : b.nb.toNat ≤ 4) :
    renderBeat st b =
      (List.range b.nb.toNat).flatMap (fun j => renderOctet st (b.data.extractLsb' (24 - 8 * j) 8)) ++ st.lineEnd := by
  rw [renderBeat, take_renderOctets st b.data _ h]

theorem renderBeat_length (st : TextStyle) (b : Beat) (h : b.nb.toNat ≤ 4) :
    (renderBeat st b).length = 2 * b.nb.toNat + st.lineEnd.length := by
  simp [renderBeat_eq st b h, List.length_flatMap, Nat.mul_comm]

/-- A digit of a style, where the style has one. -/
theorem TextStyle.digits_getElem? (st : TextStyle) {n : Nat} (h : n < st.digits.length) :
    st.digits[n]? = some (st.digits.getD n '0') := by
  rw [List.getD_eq_getElem _ _ h, List.getElem?_eq_getElem h]

/-- An octet renders as the digit of its high nibble and then that of its low one. -/
theorem renderOctet_digits (st : TextStyle) (o : Byte) (h : st.digits.length = 16) :
    ∃ a b, renderOctet st o = [a, b] ∧ st.digits[o.toNat / 16]? = some a ∧ st.digits[o.toNat % 16]? = some b :=
  ⟨_, _, rfl, st.digits_getElem? (by omega), st.digits_getElem? (by omega)⟩

end Sys2Proof.Machine

open Sys2Proof Sys2Proof.Machine

/-- Settles O47, from the digits of an octet and of the octets that `NB` counts; the rest is the spec's style written out. -/
theorem renderedBeatHasTwoDigitsAnOctet : Obligations.RenderedBeatHasTwoDigitsAnOctet :=
  ⟨fun st b h => ⟨renderBeat_eq st b h, renderBeat_length st b h⟩, renderOctet_digits, by decide, by decide, rfl⟩

end

section
/-! CRC32 (40_crc32 R68 to R72): one shift is linear over XOR, which makes `CrcUpdate` affine in the register; and what the host
CRC port (R73 to R77) does with the octets written to it. -/

namespace Sys2Proof.Machine

/-! ### The shifts of `CrcUpdate` -/

/-- The polynomial is XORed in where the bits shifted out differ, so it cancels where both are 1. -/
theorem crcShift_xor (a b : Word) : crcShift (a ^^^ b) = crcShift a ^^^ crcShift b := by
  unfold crcShift
  rw [BitVec.getLsbD_xor, BitVec.ushiftRight_xor_distrib]
  generalize a >>> 1 = x
  generalize b >>> 1 = y
  cases a.getLsbD 0 <;> cases b.getLsbD 0
  · rfl
  · exact BitVec.xor_assoc x y crcPoly
  · show x ^^^ y ^^^ crcPoly = x ^^^ crcPoly ^^^ y
    ac_rfl
  · show x ^^^ y = x ^^^ crcPoly ^^^ (y ^^^ crcPoly)
    rw [BitVec.xor_comm y, BitVec.xor_assoc, ← BitVec.xor_assoc crcPoly, BitVec.xor_self, BitVec.zero_xor]

theorem crcShifts_xor (n : Nat) (a b : Word) : crcShifts n (a ^^^ b) = crcShifts n a ^^^ crcShifts n b := by
  induction n generalizing a b with
  | zero => rfl
  | succ n ih => simp only [crcShifts, crcShift_xor, ih]

/-- The octet stands in all three updates on the right, and two of the three cancel. -/
theorem crcUpdate_xor (c1 c2 : Word) (b : Byte) :
    crcUpdate (c1 ^^^ c2) b = crcUpdate c1 b ^^^ crcUpdate c2 b ^^^ crcUpdate 0#32 b := by
  have arg : ∀ x : Word, c1 ^^^ c2 ^^^ x = c1 ^^^ x ^^^ (c2 ^^^ x) ^^^ (0#32 ^^^ x) := by
    intro x
    rw [BitVec.zero_xor, BitVec.xor_assoc _ (c2 ^^^ x), BitVec.xor_assoc c2, BitVec.xor_self, BitVec.xor_zero]
    ac_rfl
  simp only [crcUpdate, ← crcShifts_xor]
  rw [arg]

/-- One shift with its bits written out: a zero comes in at the top, and the bit that goes out decides (40_crc32 R68). -/
theorem crcShift_eq (x : Word) :
    crcShift x =
      if x.extractLsb' 0 1 = 1#1 then (0#1 ++ x.extractLsb' 1 31) ^^^ 0xEDB88320#32 else 0#1 ++ x.extractLsb' 1 31 := by
  have hbit : x.extractLsb' 0 1 = BitVec.ofBool (x.getLsbD 0) := by
    apply BitVec.eq_of_getLsbD_eq
    intro i hi
    obtain rfl : i = 0 := by omega
    simp
  have hrest : x >>> 1 = (0#1 ++ x.extractLsb' 1 31 : BitVec (1 + 31)) :=
    BitVec.ushiftRight_eq_extractLsb'_of_lt (by decide)
  rw [crcShift, hbit, hrest, crcPoly]
  cases x.getLsbD 0 <;> rfl

/-! ### The host CRC port -/

/-- Each `CRC_DATA` write folds one octet, so a run of them folds the sequence, first octet first. -/
theorem execAll_wrCrcData (xs : List Word) (s : State) :
    execAll (xs.map .wrCrcData) s = .next (s.withHcrc (crcFold s.hcrc (xs.map crcDataOctet))) := by
  induction xs generalizing s with
  | nil => rfl
  | cons x xs ih => exact ih (s.withHcrc (crcUpdate s.hcrc (crcDataOctet x)))

end Sys2Proof.Machine

open Sys2Proof Sys2Proof.Machine

/-- Settles O18: a fold goes through a concatenation, and `CrcUpdate` is eight linear shifts after the octet is XORed in. -/
theorem crcArithmeticLaws : Obligations.CrcArithmeticLaws :=
  ⟨by decide, crcFold_append, crcUpdate_xor⟩

/-- Settles O19: `CRC_INIT` begins the fold of `crc32`, the `CRC_DATA` writes carry it on, and `CRC_RESULT` gives its final XOR. -/
theorem crcPortComputesTheCrcOfTheWrittenOctets : Obligations.CrcPortComputesTheCrcOfTheWrittenOctets := by
  refine ⟨fun x => ?_, fun s x => ⟨rfl, rfl, rfl⟩, fun s x xs => ?_⟩
  · exact ⟨decode_register true .crcInit x, decode_register true .crcData x, decode_register false .crcResult x⟩
  · exact ⟨crcFold crcInitValue (xs.map crcDataOctet), execAll_wrCrcData xs (s.withHcrc crcInitValue), rfl⟩

/-- Settles O11: the three reads by their offsets, and each answers with the constant 0. -/
theorem writeOnlyAndReservedReadsReturnZero : Obligations.WriteOnlyAndReservedReadsReturnZero := by
  refine ⟨fun x => ⟨decode_register false .crcInit x, decode_register false .crcData x, fun a ha hge => ?_⟩, fun s => ?_⟩
  · exact decode_reserved false a x (by simp [Offset.reserved, Offset.aligned, ha, hge])
  · exact ⟨rfl, rfl, fun a => (rdRsvd_readsValue a).1 s⟩

/-- Settles O48: the statement's shift is `crcShift`, and `crcUpdate` makes eight of them; the examples are evaluated. -/
theorem crcUpdateShiftsEightTimesWithThePolynomial : Obligations.CrcUpdateShiftsEightTimesWithThePolynomial := by
  refine ⟨fun c b => ?_, fun _ => rfl, by decide +kernel, by decide, by decide +kernel⟩
  have octet : b.setWidth 32 = (0#24 ++ b : BitVec (24 + 8)) := BitVec.setWidth_eq_append (by decide)
  simp only [← crcShift_eq, ← octet]
  rfl

end

section
/-! The fields of a frame (41_frame_assembler R79 to R84): the octets of each by position, what the FCS is taken over, and what a
frame depends on. -/

namespace Sys2Proof.Machine

theorem frameByte_preambleSfd (p : Params) (c : TrafficProfile) (i : Nat) (h : i < 8) :
    frameByte p c i = octetAt (preambleSfd p) (56 - 8 * i) := by
  rw [frameByte, if_pos (by omega)]

theorem frameByte_destMac (p : Params) (c : TrafficProfile) (j : Nat) (h : j < 6) :
    frameByte p c (8 + j) = octetAt c.destMac (40 - 8 * j) := by
  rw [frameByte, if_neg (by omega), if_pos (by omega), Nat.add_sub_cancel_left]

theorem frameByte_srcMac (p : Params) (c : TrafficProfile) (j : Nat) (h : j < 6) :
    frameByte p c (14 + j) = octetAt c.srcMac (40 - 8 * j) := by
  rw [frameByte, if_neg (by omega), if_neg (by omega), if_pos (by omega), Nat.add_sub_cancel_left]

/-- What follows the EtherType is the zero-filled payload (41_frame_assembler R79). -/
theorem frameByte_payload (p : Params) (c : TrafficProfile) (i : Nat) (h : 22 ≤ i) : frameByte p c i = 0#8 := by
  rw [frameByte, if_neg (by omega), if_neg (by omega), if_neg (by omega), if_neg (by omega), if_neg (by omega)]

/-- The octets before the FCS are the body that the FCS is taken over. -/
theorem frameOctets_take_body (p : Params) (c : TrafficProfile) :
    (frameOctets p c).take (c.frameBytes - 4) = frameBody p c :=
  List.take_left' (bodyPrefix_length p c _)

/-- A frame is a function of the length, the two MACs and the parameters. -/
theorem frameOctets_congr (p : Params) {c c' : TrafficProfile} (hlen : c'.frameBytes = c.frameBytes)
    (hdest : c'.destMac = c.destMac) (hsrc : c'.srcMac = c.srcMac) : frameOctets p c' = frameOctets p c := by
  have hbyte : frameByte p c' = frameByte p c := by
    funext i
    rw [frameByte, frameByte, hdest, hsrc]
  have hbody : frameBody p c' = frameBody p c := by
    rw [frameBody, frameBody, bodyPrefix, bodyPrefix, hlen, hbyte]
  rw [frameOctets, frameOctets, frameFcs, frameFcs, hbody]

end Sys2Proof.Machine

open Sys2Proof Sys2Proof.Machine

/-- Settles O21, field by field: each octet before the FCS is `FrameByte` at its position, and the last four are the FCS, which is
taken over the others. -/
theorem frameHasItsFieldsInOrder : Obligations.FrameHasItsFieldsInOrder := by
  intro p c (h : 26 ≤ c.frameBytes)
  have body : ∀ i, i + 4 < c.frameBytes → (frameOctets p c)[i]? = some (frameByte p c i) := frameOctets_body p c
  refine ⟨frameOctets_length p c (by omega), fun i hi => ?preamble, fun j hj => ?destMac, fun j hj => ?srcMac,
    body 20 (by omega), body 21 (by omega), fun i h22 hi => ?payload, fun j hj => ?fcs, fun c' hlen hdh hdl hsh hsl => ?congr⟩
  case preamble => rw [body i (by omega), frameByte_preambleSfd p c i hi]; rfl
  case destMac => rw [body (8 + j) (by omega), frameByte_destMac p c j hj]; rfl
  case srcMac => rw [body (14 + j) (by omega), frameByte_srcMac p c j hj]; rfl
  case payload => rw [body i hi, frameByte_payload p c i h22]
  case fcs =>
    show (frameOctets p c)[c.frameBytes - 4 + j]? =
      some (octetAt (crc32 ((frameOctets p c).take (c.frameBytes - 4))) (24 - 8 * j))
    rw [frameOctets_take_body, frameOctets_fcs p c _ (by omega) (by omega) (by omega), frameFcs,
      show c.frameBytes - 4 + j + 4 - c.frameBytes = j by omega]
  case congr =>
    refine frameOctets_congr p (congrArg BitVec.toNat hlen) ?_ ?_
    · rw [TrafficProfile.destMac, TrafficProfile.destMac, hdh, hdl]
    · rw [TrafficProfile.srcMac, TrafficProfile.srcMac, hsh, hsl]

end

section
/-! The numbers of the burst plan (42_burst_plan R88) as natural numbers, the START checks in their terms, and START's equation in
each of its cases (R96). -/

namespace Sys2Proof.Machine

/-! ### The plan -/

theorem planRemainingBits_eq (c : TrafficProfile) :
    planRemainingBits c = ((c.burstPeriodUs.toNat * c.lineRateGbps.toNat * 1000 : Nat) : Int) -
      ((c.framesPerBurst.toNat * c.maxFrameBytes.toNat * 8 : Nat) : Int) := by
  simp [planRemainingBits]

/-- The clamp of `EOBW` at `RB ≤ 0` is the truncated subtraction. -/
theorem planEobWords_eq (c : TrafficProfile) :
    planEobWords c = (c.burstPeriodUs.toNat * c.lineRateGbps.toNat * 1000 -
      c.framesPerBurst.toNat * c.maxFrameBytes.toNat * 8 + 31) / 32 := by
  rw [planEobWords, planRemainingBits_eq]
  generalize c.burstPeriodUs.toNat * c.lineRateGbps.toNat * 1000 = capacity
  generalize c.framesPerBurst.toNat * c.maxFrameBytes.toNat * 8 = used
  split <;> omega

theorem planRemainingBits_emod_eight (c : TrafficProfile) : planRemainingBits c % 8 = 0 := by
  rw [planRemainingBits_eq]
  omega

theorem planIfgWords_of_gap {c : TrafficProfile} {g : Word} (h : c.minIfgBytes = g) : planIfgWords c = (g.toNat + 3) / 4 := by
  rw [planIfgWords, h]

theorem planIfgWords_le (c : TrafficProfile) : planIfgWords c ≤ 2 ^ 30 := by
  have := c.minIfgBytes.isLt
  rw [planIfgWords]
  omega

/-- `P * R < 2^64`, and `1000 / 32 < 2^6`. -/
theorem planEobWords_lt (c : TrafficProfile) : planEobWords c < 2 ^ 70 := by
  have hPR : c.burstPeriodUs.toNat * c.lineRateGbps.toNat < 2 ^ 32 * 2 ^ 32 :=
    Nat.mul_lt_mul'' c.burstPeriodUs.isLt c.lineRateGbps.isLt
  rw [planEobWords_eq]
  omega

theorem planFrames_lt (c : TrafficProfile) : planBursts c * c.framesPerBurst.toNat < 2 ^ 74 :=
  calc planBursts c * c.framesPerBurst.toNat
    _ < 2 ^ 42 * 2 ^ 32 := Nat.mul_lt_mul'' (planBursts_lt c) c.framesPerBurst.isLt
    _ = 2 ^ 74 := by norm_num

/-! ### The checks -/

theorem paramError_iff (c : TrafficProfile) :
    paramError c = true ↔ c.lineRateGbps.toNat = 0 ∨ c.burstPeriodUs.toNat = 0 := by
  simp [paramError, BitVec.toNat_eq]

theorem rangeError_iff (c : TrafficProfile) :
    rangeError c = true ↔ 2 ^ 64 ≤ planEobWords c ∨ 2 ^ 64 ≤ planBursts c * c.framesPerBurst.toNat :=
  decide_eq_true_iff

theorem sizeError_iff (c : TrafficProfile) :
    sizeError c = true ↔ planBursts c > 0 ∧ c.framesPerBurst.toNat > 0 ∧ c.maxFrameBytes.toNat < 26 :=
  decide_eq_true_iff

/-! ### START -/

theorem State.start_of_paramError {s : State} (hp : paramError s.cfg = true) :
    s.start = (s.clearOutcome.withPlan PlanRegs.zero).raise .param := by
  simp [State.start, hp]

theorem State.start_of_rangeError {s : State} (hp : paramError s.cfg = false) (hr : rangeError s.cfg = true) :
    s.start = (s.clearOutcome.withPlan PlanRegs.zero).raise .range := by
  simp [State.start, hp, hr]

theorem State.start_of_sizeError {s : State} (hp : paramError s.cfg = false) (hr : rangeError s.cfg = false)
    (hs : sizeError s.cfg = true) : s.start = (s.clearOutcome.withPlan (planRegs s.cfg)).raise .size := by
  simp [State.start, hp, hr, hs]

theorem State.start_of_accepted {s : State} (hp : paramError s.cfg = false) (hr : rangeError s.cfg = false)
    (hs : sizeError s.cfg = false) :
    s.start = (s.clearOutcome.withPlan (planRegs s.cfg)).withSeq (Sequencer.begin s.clearOutcome.seq) := by
  simp [State.start, hp, hr, hs]

/-- The padding policy is no part of what START reads or writes. -/
@[simp] theorem State.start_withPad (s : State) (b : Bool) : (s.withPad b).start = s.start.withPad b := by
  obtain ⟨hp, e⟩ | ⟨hp, hr, e⟩ | ⟨hp, hr, hs, e⟩ | ⟨hp, hr, hs, e⟩ := s.start_cases <;> rw [e]
  · exact start_of_paramError hp
  · exact start_of_rangeError hp hr
  · exact start_of_sizeError hp hr hs
  · exact start_of_accepted hp hr hs

/-- While idle a CTRL write with its START bit set stores the padding policy and acts as START (44_register_ops R114). -/
theorem exec_wrCtrl_of_start {s : State} {x : Word} (hidle : s.seq.phase = .idle) (hx : ctrlStart x = true) :
    exec (.wrCtrl x) s = .next (s.start.withPad (ctrlPad x)) := by
  obtain ⟨hb, _⟩ | ⟨_, hn, _⟩ | ⟨_, _, e⟩ := s.writeCtrl_cases x
  · exact absurd hidle (s.busy_eq_true.mp hb)
  · exact absurd hx (by simp [hn])
  · rw [← s.start_withPad, ← e]; rfl

end Sys2Proof.Machine

open Sys2Proof Sys2Proof.Machine

/-- Settles O15: each case is START's own equation, with the checks and the plan registers read as numbers. -/
theorem startComputesThePlanAndChecksIt : Obligations.StartComputesThePlanAndChecksIt := by
  intro s x hidle hx R C G S F P B EOBW t
  have hexec : exec (.wrCtrl x) s = .next (s.start.withPad (ctrlPad x)) := exec_wrCtrl_of_start hidle hx
  have heob : planEobWords s.cfg = EOBW := planEobWords_eq s.cfg
  have param : paramError s.cfg = true ↔ R = 0 ∨ P = 0 := paramError_iff s.cfg
  have range : rangeError s.cfg = true ↔ 2 ^ 64 ≤ EOBW ∨ 2 ^ 64 ≤ B * F := heob ▸ rangeError_iff s.cfg
  have size : sizeError s.cfg = true ↔ B > 0 ∧ F > 0 ∧ S < 26 := sizeError_iff s.cfg
  have plan : rangeError s.cfg = false → (planRegs s.cfg).totalBursts.toNat = B ∧
      (planRegs s.cfg).ifgWords.toNat = (G + 3) / 4 ∧ (planRegs s.cfg).eobWords.toNat = EOBW := fun hr =>
    ⟨planRegs_totalBursts s.cfg, planRegs_ifgWords s.cfg, (planRegs_eobWords s.cfg hr).trans heob⟩
  rw [← param, ← range, ← size, Bool.not_eq_true, Bool.not_eq_true, Bool.not_eq_true, hexec]
  refine ⟨fun hp => ?param, fun hp hr => ?range, fun hp hr hs => ⟨_, rfl, ?size⟩, fun hp hr hs => ⟨_, rfl, ?accepted⟩⟩
  case param => rw [State.start_of_paramError hp]; rfl
  case range => rw [State.start_of_rangeError hp hr]; rfl
  case size => rw [State.start_of_sizeError hp hr hs]; exact ⟨rfl, plan hr⟩
  case accepted => rw [State.start_of_accepted hp hr hs]; exact ⟨rfl, plan hr⟩

/-- Settles O17: `EOBW` is worked out from its form on natural numbers, and START commutes with a change of the padding policy. -/
theorem planObeysItsLaws : Obligations.PlanObeysItsLaws := by
  refine ⟨fun c _ h => Nat.div_eq_of_lt h,
    fun c => ⟨planIfgWords_of_gap, planIfgWords_of_gap, planIfgWords_of_gap, planIfgWords_of_gap⟩,
    fun c h => ?noRemainder, fun c => ?remainder, fun c h => ?noFrames, fun _ _ _ _ _ => ⟨rfl, rfl, rfl⟩, fun s b => ?padding,
    fun c _ => ⟨planBursts_lt c, planIfgWords_le c, planEobWords_lt c, planFrames_lt c⟩⟩
  case noRemainder => rw [planEobWords_eq, Nat.sub_eq_zero_of_le h]
  case remainder =>
    have h8 := planRemainingBits_emod_eight c
    exact ⟨h8, by omega, fun h => by rw [planEobWords, h]; rfl⟩
  case noFrames =>
    rw [planRemainingBits_eq, planEobWords_eq, h]
    simp
  case padding =>
    show (s.withPad b).start.plan = s.start.plan
    rw [s.start_withPad]; rfl

end

section
/-! The sequencer's turn by phase (43_serializer R102 to R106): which step it takes, and the steps' equations by their conditions. -/

namespace Sys2Proof.Machine

/-! ### The step of each phase -/

section
variable {s : State} (ready : Bool)

theorem State.turn_of_burstTop (hp : s.seq.phase = .burstTop) : s.turn ready = s.stepBurstTop := by
  simp [State.turn, State.wantsSink, State.candidate, hp]

theorem State.turn_of_frameTop (hp : s.seq.phase = .frameTop) : s.turn ready = s.stepFrameTop := by
  simp [State.turn, State.wantsSink, State.candidate, hp]

theorem State.turn_of_frame (hp : s.seq.phase = .frame) : s.turn true = s.stepFrame := by
  simp [State.turn, State.candidate, hp]

theorem State.turn_of_ifg_end (hp : s.seq.phase = .ifg) (hf : s.seq.fill = 0#64) : s.turn ready = s.leaveIfg := by
  simp [State.turn, State.wantsSink, State.candidate, State.stepIfg, hp, hf]

theorem State.turn_of_eob_end (hp : s.seq.phase = .eob) (hf : s.seq.fill = 0#64) : s.turn ready = s.leaveEob := by
  simp [State.turn, State.wantsSink, State.candidate, State.stepEob, hp, hf]

theorem State.turn_of_filler (hp : s.seq.phase = .ifg ∨ s.seq.phase = .eob) (hf : s.seq.fill ≠ 0#64) :
    s.turn true = s.emitFiller := by
  obtain hp | hp := hp <;> simp [State.turn, State.candidate, State.stepIfg, State.stepEob, hp, hf]

end

/-! ### The steps by their conditions -/

section
variable {s : State}

theorem State.stepBurstTop_of_last (h : s.seq.burst = s.plan.totalBursts) : s.stepBurstTop = s.finish false := if_pos h

theorem State.stepBurstTop_of_stop (h : s.seq.burst ≠ s.plan.totalBursts) (hs : s.seq.stopReq = true) :
    s.stepBurstTop = s.finish true := by
  simp [State.stepBurstTop, h, hs]

theorem State.stepBurstTop_of_more (h : s.seq.burst ≠ s.plan.totalBursts) (hs : s.seq.stopReq = false) :
    s.stepBurstTop = s.withSeq { s.seq with frame := 0#32, phase := .frameTop } := by
  simp [State.stepBurstTop, h, hs]

theorem State.stepFrameTop_of_last (h : s.seq.frame = s.cfg.framesPerBurst) :
    s.stepFrameTop = s.withSeq { s.seq with fill := s.plan.eobWords, phase := .eob } := if_pos h

theorem State.stepFrameTop_of_stop (h : s.seq.frame ≠ s.cfg.framesPerBurst) (hs : s.seq.stopReq = true) :
    s.stepFrameTop = s.finish true := by
  simp [State.stepFrameTop, h, hs]

theorem State.stepFrameTop_of_more (h : s.seq.frame ≠ s.cfg.framesPerBurst) (hs : s.seq.stopReq = false) :
    s.stepFrameTop = s.withSeq { s.seq with byte := 0#32, fcs := crcInitValue, phase := .frame } := by
  simp [State.stepFrameTop, h, hs]

end

end Sys2Proof.Machine

open Sys2Proof Sys2Proof.Machine

/-- Settles O24: the step of `BURST_TOP` under each of its three conditions. -/
theorem burstTopStep : Obligations.BurstTopStep := by
  intro s ready hp
  rw [State.turn_of_burstTop ready hp]
  refine ⟨fun h => ?_, fun h hs => ?_, fun h hs => State.stepBurstTop_of_more h hs⟩
  · rw [State.stepBurstTop_of_last h]
    exact ⟨_, rfl, rfl, rfl⟩
  · rw [State.stepBurstTop_of_stop h hs]
    exact ⟨_, rfl, rfl, rfl⟩

/-- Settles O25: the step of `FRAME_TOP` under each of its three conditions; the first does not look at a pending stop. -/
theorem frameTopStep : Obligations.FrameTopStep := by
  intro s ready hp
  rw [State.turn_of_frameTop ready hp]
  refine ⟨fun h => State.stepFrameTop_of_last h, fun h hs => ?_, fun h hs => State.stepFrameTop_of_more h hs⟩
  rw [State.stepFrameTop_of_stop h hs]
  exact ⟨_, rfl, rfl, rfl⟩

/-- Settles O26: with the filler counted off both phases leave by their boundary step, and before that both emit one filler beat. -/
theorem fillerSteps : Obligations.FillerSteps := fun _ =>
  ⟨fun hp hf ready => State.turn_of_ifg_end ready hp hf, fun hp hf ready => State.turn_of_eob_end ready hp hf,
    State.turn_of_filler, rfl⟩

end

section
/-! The beats of a frame (43_serializer R97, R98) and the step that emits them (R104): chunks of four octets, what the next beat of
a frame is under the invariant, and where the frame ends. -/

namespace Sys2Proof.Machine

/-! ### Chunks of four -/

/-- Chunks of four, one after another, are the list up to there. -/
theorem flatMap_chunks {α : Type} (l : List α) (n : Nat) :
    ((List.range n).flatMap fun k => (l.drop (4 * k)).take 4) = l.take (4 * n) := by
  induction n with
  | zero => simp
  | succ n ih => simp [List.range_succ, ih, Nat.mul_succ, List.take_add]

/-- The octets of a chunk, lane by lane. -/
theorem map_lanes_packLanes (os : List Byte) (h : os.length ≤ 4) :
    (List.range os.length).map (fun j => octetAt (packLanes os) (24 - 8 * j)) = os := by
  refine List.ext_getElem (by simp) fun j _ hj => ?_
  simp [octetAt_packLanes os j (by omega), hj]

/-! ### The beats of a frame -/

theorem frameBeat_nb (p : Params) (c : TrafficProfile) (pad : Bool) (k : Nat) :
    (frameBeat p c pad k).nb.toNat =
      if min 4 (c.frameBytes - 4 * k) < 4 ∧ pad = true then 4 else min 4 (c.frameBytes - 4 * k) :=
  beatCount_toNat pad _ (Nat.min_le_left _ _)

theorem frameBeat_lane (p : Params) (c : TrafficProfile) (pad : Bool) (k : Nat) {j : Nat} (h : j < 4) :
    octetAt (frameBeat p c pad k).data (24 - 8 * j) = ((frameOctets p c)[4 * k + j]?).getD 0#8 := by
  refine (octetAt_packLanes _ j h).trans ?_
  rw [List.getD_eq_getElem?_getD, List.getElem?_take_of_lt h, List.getElem?_drop]

/-- The octets that an unpadded beat's `NB` counts are its chunk of the frame. -/
theorem frameBeat_octets (p : Params) (c : TrafficProfile) (k : Nat) (h : 4 ≤ c.frameBytes) :
    (List.range (frameBeat p c false k).nb.toNat).map (fun j => octetAt (frameBeat p c false k).data (24 - 8 * j)) =
      ((frameOctets p c).drop (4 * k)).take 4 := by
  have hlen : (((frameOctets p c).drop (4 * k)).take 4).length = (frameBeat p c false k).nb.toNat := by
    simp [frameBeat_nb, frameOctets_length p c h]
  rw [← hlen]
  exact map_lanes_packLanes _ (by simp)

/-- The octets of the unpadded beats, one after another, are the frame. -/
theorem frameBeats_octets (p : Params) (c : TrafficProfile) (h : 4 ≤ c.frameBytes) :
    ((frameBeats p c false).flatMap fun b => (List.range b.nb.toNat).map fun j => octetAt b.data (24 - 8 * j)) =
      frameOctets p c := by
  simp only [frameBeats, List.flatMap_map, frameBeat_octets p c _ h, flatMap_chunks]
  refine List.take_of_length_le ?_
  rw [frameOctets_length p c h, beatsPerFrame]
  omega

/-! ### The next beat -/

/-- `seq.byte` does not wrap inside a frame. -/
theorem State.byte_add_four (s : State) (hlt : s.seq.byte.toNat + 4 < s.cfg.frameBytes) :
    (s.seq.byte + 4#32).toNat = s.seq.byte.toNat + 4 := by
  have hS : s.cfg.frameBytes < 2 ^ 32 := s.cfg.maxFrameBytes.isLt
  exact BitVec.toNat_add_of_lt (by simp; omega)

section
variable {s : State} (h : s.Inv) (hp : s.seq.phase = .frame)
include h hp

/-- Inside a frame the size check has passed for a run that builds one (42_burst_plan R94). -/
theorem State.Inv.frameBytes_ge : 26 ≤ s.cfg.frameBytes := by
  have hb : s.busy = true := by simp [hp]
  obtain ⟨_, _, hsize, hplan⟩ := h.run_checked hb
  obtain ⟨_, hburst⟩ := h.burst_bound hb
  obtain ⟨_, hframe, _⟩ := h.frame_bound hb
  have hB := hburst (by simp [hp])
  rw [State.totalBursts, hplan, planRegs_totalBursts] at hB
  exact frameBytes_of_sizeOk hsize (by omega) (by have := hframe (.inl hp); unfold State.framesPerBurst at this; omega)

theorem State.Inv.byte_lt : s.seq.byte.toNat < s.cfg.frameBytes ∧ s.seq.byte.toNat % 4 = 0 :=
  (h.byte_bound (by simp [hp])).2 hp

theorem State.Inv.byte_add_laneCount :
    s.seq.byte.toNat + s.laneCount = min (s.seq.byte.toNat + 4) s.cfg.frameBytes := by
  have := (h.byte_lt hp).1
  unfold State.laneCount
  omega

theorem State.Inv.nextByte_toNat : s.nextByte.toNat = min (s.seq.byte.toNat + 4) s.cfg.frameBytes := by
  have : s.cfg.frameBytes < 2 ^ 32 := s.cfg.maxFrameBytes.isLt
  rw [State.nextByte, h.byte_add_laneCount hp, BitVec.toNat_ofNat, Nat.mod_eq_of_lt (by omega)]

/-- The frame's last beat is the one that reaches `S` (43_serializer R104). -/
theorem State.Inv.nextByte_eq_iff : s.nextByte = s.cfg.maxFrameBytes ↔ s.cfg.frameBytes ≤ s.seq.byte.toNat + 4 := by
  rw [BitVec.toNat_eq, h.nextByte_toNat hp, ← TrafficProfile.frameBytes]
  omega

theorem State.Inv.nextLanes_eq :
    s.nextLanes =
      (crcFold crcInitValue (bodyPrefix s.params s.cfg (min (min (s.seq.byte.toNat + 4) s.cfg.frameBytes) (s.cfg.frameBytes - 4))),
        ((frameOctets s.params s.cfg).drop s.seq.byte.toNat).take s.laneCount) := by
  have h26 := h.frameBytes_ge hp
  have hsum := h.byte_add_laneCount hp
  rw [State.nextLanes, h.fcs_folds hp, frameLanes_eq _ _ _ _ (by omega) (by omega), hsum]

/-- `seq.fcs` after a beat inside the frame. -/
theorem State.Inv.nextLanes_fst_of_lt (hlt : s.seq.byte.toNat + 4 < s.cfg.frameBytes) :
    s.nextLanes.1 = crcFold crcInitValue (bodyPrefix s.params s.cfg (min (s.seq.byte.toNat + 4) (s.cfg.frameBytes - 4))) := by
  rw [h.nextLanes_eq hp, Nat.min_eq_left hlt.le]

/-- `seq.fcs` after the frame's last beat has folded the whole body. -/
theorem State.Inv.nextLanes_fst_of_last (hle : s.cfg.frameBytes ≤ s.seq.byte.toNat + 4) :
    s.nextLanes.1 = crcFold crcInitValue (frameBody s.params s.cfg) := by
  rw [h.nextLanes_eq hp, Nat.min_eq_right hle, Nat.min_eq_right (Nat.sub_le _ _), frameBody]

/-- The next beat is that of `FrameBeats` at index `seq.byte / 4`. -/
theorem State.Inv.nextBeat_eq : s.nextBeat = frameBeat s.params s.cfg s.padToWord (s.seq.byte.toNat / 4) := by
  have hbyte : 4 * (s.seq.byte.toNat / 4) = s.seq.byte.toNat := by have := (h.byte_lt hp).2; omega
  have h26 := h.frameBytes_ge hp
  have hchunk : ((frameOctets s.params s.cfg).drop s.seq.byte.toNat).take s.laneCount =
      ((frameOctets s.params s.cfg).drop s.seq.byte.toNat).take 4 := by
    rw [List.take_eq_take_iff, List.length_drop, frameOctets_length _ _ (by omega), State.laneCount]
    omega
  rw [State.nextBeat, h.nextLanes_eq hp, frameBeat, hbyte, hchunk, State.laneCount]

theorem State.Inv.frameBeats_getElem?_nextBeat :
    (frameBeats s.params s.cfg s.padToWord)[s.seq.byte.toNat / 4]? = some s.nextBeat := by
  have hlt := (h.byte_lt hp).1
  rw [h.nextBeat_eq hp, frameBeats_getElem? _ _ _ _ (by omega)]

/-- The step on a beat before the frame's last. -/
theorem State.Inv.stepFrame_of_lt (hlt : s.seq.byte.toNat + 4 < s.cfg.frameBytes) :
    s.stepFrame = (s.emit s.nextBeat).withSeq { s.seq with
      byte := s.seq.byte + 4#32,
      fcs := crcFold crcInitValue (bodyPrefix s.params s.cfg (min (s.seq.byte.toNat + 4) (s.cfg.frameBytes - 4))) } := by
  have hbyte : s.nextByte = s.seq.byte + 4#32 := by
    apply BitVec.eq_of_toNat_eq
    rw [h.nextByte_toNat hp, s.byte_add_four hlt, Nat.min_eq_left hlt.le]
  obtain ⟨_, e⟩ | ⟨hl, _⟩ := s.stepFrame_cases
  · rw [e, hbyte, h.nextLanes_fst_of_lt hp hlt]
  · exact absurd ((h.nextByte_eq_iff hp).mp hl) (by omega)

/-- The step on the frame's last beat. -/
theorem State.Inv.stepFrame_of_last (hle : s.cfg.frameBytes ≤ s.seq.byte.toNat + 4) :
    s.stepFrame = (((s.emit s.nextBeat).withFramesSent (s.framesSent + 1#64)).withLastFcs (frameFcs s.params s.cfg)).withSeq
      { s.seq with byte := s.cfg.maxFrameBytes, fcs := crcFold crcInitValue (frameBody s.params s.cfg),
                   fill := s.plan.ifgWords.setWidth 64, phase := .ifg } := by
  have hl := (h.nextByte_eq_iff hp).mpr hle
  obtain ⟨hne, _⟩ | ⟨_, e⟩ := s.stepFrame_cases
  · exact absurd hl hne
  · rw [e, hl, h.nextLanes_fst_of_last hp hle]
    rfl

end

end Sys2Proof.Machine

open Sys2Proof Sys2Proof.Machine

/-- Settles O27: the lanes of the step are those of the frame's own octets (`frameLanes_eq`), so the beat is the one of `FrameBeats`,
and the register it leaves is that over the body octets so far, the whole body after the last beat. -/
theorem frameStepEmitsTheNextBeatOfTheFrame : Obligations.FrameStepEmitsTheNextBeatOfTheFrame := by
  intro s h hp
  rw [State.turn_of_frame hp]
  exact ⟨s.nextBeat, h.frameBeats_getElem?_nextBeat hp, h.stepFrame_of_lt hp, h.stepFrame_of_last hp⟩

/-- Settles O22: a beat holds a chunk of four octets of the frame, and the chunks one after another are the frame. -/
theorem chunkingCarriesTheFrameInBeats : Obligations.ChunkingCarriesTheFrameInBeats := by
  intro p c (h : 26 ≤ c.frameBytes)
  refine ⟨frameBeats_length p c, fun pad k hk => ⟨_, frameBeats_getElem? p c pad k hk, fun j hj => ?_, ?_⟩, ?_⟩
  · exact frameBeat_lane p c pad k hj
  · exact frameBeat_nb p c pad k
  · exact frameBeats_octets p c (by omega)

end

section
/-! The stop request (43_serializer R108): who sets it, what keeps it, and which steps look at it. -/

namespace Sys2Proof.Machine

/-- The state with the stop request set or cleared. -/
def State.withStop (s : State) (b : Bool) : State := s.withSeq { s.seq with stopReq := b }

@[simp] theorem State.wantsSink_withStop (s : State) (b : Bool) : (s.withStop b).wantsSink = s.wantsSink := rfl

/-- A CTRL write with its STOP bit set makes a stop pending during a run, whatever its other bits (44_register_ops R114). -/
theorem State.writeCtrl_stop {s : State} (hb : s.busy = true) {x : Word} (hx : ctrlStop x = true) :
    s.writeCtrl x = s.withStop true := by
  rw [State.writeCtrl_of_busy hb, hx, Bool.or_true]
  rfl

/-- The steps inside a burst do not look at the stop request. -/
theorem State.candidate_withStop {s : State} (hp : s.seq.phase = .frame ∨ s.seq.phase = .ifg ∨ s.seq.phase = .eob) (b : Bool) :
    (s.withStop b).candidate = s.candidate.withStop b := by
  unfold State.candidate
  rw [State.withStop, State.withSeq_seq]
  obtain hp | hp | hp := hp <;> rw [hp]
  · simp only [State.stepFrame, apply_ite (State.withStop · b)]; rfl
  · simp only [State.stepIfg, apply_ite (State.withStop · b)]; rfl
  · simp only [State.stepEob, apply_ite (State.withStop · b)]; rfl

theorem State.turn_withStop {s : State} (hp : s.seq.phase = .frame ∨ s.seq.phase = .ifg ∨ s.seq.phase = .eob) (b ready : Bool) :
    (s.withStop b).turn ready = (s.turn ready).withStop b := by
  simp only [State.turn, State.wantsSink_withStop, State.candidate_withStop hp, apply_ite (State.withStop · b)]

/-- A turn ends the run, or it leaves BUSY and the stop request as they are. -/
theorem State.turn_finishes_or_keeps (s : State) (ready : Bool) :
    (∃ how, s.turn ready = s.finish how) ∨
    ((s.turn ready).busy = s.busy ∧ (s.turn ready).seq.stopReq = s.seq.stopReq) := by
  have keeps : ∀ {t : State}, s.seq.phase ≠ .idle → t.seq.phase ≠ .idle → t.seq.stopReq = s.seq.stopReq →
      t.busy = s.busy ∧ t.seq.stopReq = s.seq.stopReq := fun hs ht hq =>
    ⟨(State.busy_eq_true _).mpr ht |>.trans ((s.busy_eq_true).mpr hs).symm, hq⟩
  obtain ⟨_, e⟩ | ⟨hp, e⟩ | ⟨hp, e⟩ | ⟨hp, _, e⟩ | ⟨hp, _, e⟩ | ⟨hp, _, e⟩ | ⟨hp, _, _, e⟩ := s.turn_cases ready <;> rw [e]
  · exact .inr ⟨rfl, rfl⟩
  · obtain ⟨_, e⟩ | ⟨_, _, e⟩ | ⟨_, _, e⟩ := s.stepBurstTop_cases <;> rw [e]
    · exact .inl ⟨_, rfl⟩
    · exact .inl ⟨_, rfl⟩
    · exact .inr (keeps (by simp [hp]) nofun rfl)
  · obtain ⟨_, e⟩ | ⟨_, _, e⟩ | ⟨_, _, e⟩ := s.stepFrameTop_cases <;> rw [e]
    · exact .inr (keeps (by simp [hp]) nofun rfl)
    · exact .inl ⟨_, rfl⟩
    · exact .inr (keeps (by simp [hp]) nofun rfl)
  · obtain ⟨_, e⟩ | ⟨_, e⟩ := s.stepFrame_cases <;> rw [e]
    · exact .inr ⟨rfl, rfl⟩
    · exact .inr (keeps (by simp [hp]) nofun rfl)
  · exact .inr (keeps (by simp [hp]) nofun rfl)
  · exact .inr (keeps (by simp [hp]) nofun rfl)
  · exact .inr ⟨rfl, rfl⟩

/-- No event withdraws the request while the run goes on. -/
theorem step_keeps_stopReq {s s' : State} (hb : s.busy = true) (hq : s.seq.stopReq = true) (h : step s = .next s')
    (hb' : s'.busy = true) : s'.seq.stopReq = true := by
  obtain ⟨u, a, es, hu, rfl⟩ := step_effect h
  cases hu with
  | none => exact hq
  | cfg _ hi => cases hb.symm.trans hi
  | hcrc _ => exact hq
  | ctrl x _ => rw [State.writeCtrl_of_busy hb]; simp [hq]
  | turn ready _ _ =>
    obtain ⟨how, e⟩ | ⟨_, e⟩ := s.turn_finishes_or_keeps ready
    · rw [e] at hb'; cases hb'
    · exact e.trans hq
  | reset _ _ => cases hb'

/-- A boundary with work left cancels the run exactly if a stop is pending (43_serializer R102, R103). -/
theorem State.turn_samples_stop {s : State} (ready : Bool)
    (hp : (s.seq.phase = .burstTop ∧ s.seq.burst ≠ s.plan.totalBursts) ∨
      (s.seq.phase = .frameTop ∧ s.seq.frame ≠ s.cfg.framesPerBurst)) :
    (s.seq.stopReq = true → s.turn ready = s.finish true) ∧ (s.seq.stopReq = false → (s.turn ready).seq.phase ≠ .idle) := by
  obtain ⟨hp, hn⟩ | ⟨hp, hn⟩ := hp
  · rw [State.turn_of_burstTop ready hp]
    exact ⟨State.stepBurstTop_of_stop hn, fun hq => by rw [State.stepBurstTop_of_more hn hq]; nofun⟩
  · rw [State.turn_of_frameTop ready hp]
    exact ⟨State.stepFrameTop_of_stop hn, fun hq => by rw [State.stepFrameTop_of_more hn hq]; nofun⟩

end Sys2Proof.Machine

open Sys2Proof Sys2Proof.Machine

/-- Settles O39: of the effects of a step only the end of the run clears the request, and only the two boundary steps read it. -/
theorem stopRequestIsKeptAndSampledAtBoundaries : Obligations.StopRequestIsKeptAndSampledAtBoundaries := by
  refine ⟨fun s x hb hx => congrArg Host.Outcome.next (State.writeCtrl_stop hb hx), fun _ _ => step_keeps_stopReq,
    fun s ready b hp => State.turn_withStop hp b ready, fun s ready hp => ?sampled, State.start_stopReq,
    fun s ready hb hi => ?ended⟩
  case sampled =>
    obtain ⟨hstop, hgo⟩ := State.turn_samples_stop ready hp
    exact ⟨fun hq => by rw [hstop hq]; exact ⟨rfl, rfl⟩, hgo⟩
  case ended =>
    obtain ⟨how, e⟩ | ⟨e, _⟩ := s.turn_finishes_or_keeps ready
    · rw [e]; rfl
    · cases hb.symm.trans (e.symm.trans hi)

end

section
/-! The trace (43_serializer R100): its numbers of beats, its growth frame by frame and burst by burst, and what stands before a
frame of a run. -/

namespace Sys2Proof.Machine

section
variable (p : Params) (c : TrafficProfile) (pad : Bool)

theorem frameUnits_length (ifgw n : Nat) : (frameUnits p c pad ifgw n).length = n * ((c.frameBytes + 3) / 4 + ifgw) := by
  simp [frameUnits, frameUnit, frameBeats_length, filler]

theorem burstBeats_length (r : PlanRegs) :
    (burstBeats p c pad r).length =
      c.framesPerBurst.toNat * ((c.frameBytes + 3) / 4 + r.ifgWords.toNat) + r.eobWords.toNat := by
  simp [burstBeats, frameUnits_length, filler]

theorem trace_length (r : PlanRegs) :
    (trace p c pad r).length = r.totalBursts.toNat *
      (c.framesPerBurst.toNat * ((c.frameBytes + 3) / 4 + r.ifgWords.toNat) + r.eobWords.toNat) := by
  simp [trace, bursts, burstBeats_length]

/-- One more frame adds its beats and its filler at the end. -/
theorem frameUnits_succ (ifgw n : Nat) :
    frameUnits p c pad ifgw (n + 1) = frameUnits p c pad ifgw n ++ (frameBeats p c pad ++ filler ifgw) := by
  simp [frameUnits, frameUnit, List.replicate_succ']

/-- One more burst adds its frames and its filler at the end. -/
theorem bursts_succ (r : PlanRegs) (n : Nat) :
    bursts p c pad r (n + 1) =
      bursts p c pad r n ++ (frameUnits p c pad r.ifgWords.toNat c.framesPerBurst.toNat ++ filler r.eobWords.toNat) := by
  simp [bursts, burstBeats, List.replicate_succ']

end

/-- The same list once for each number of a range. -/
theorem flatten_replicate_eq_flatMap {α : Type} (n : Nat) (l : List α) :
    (List.replicate n l).flatten = (List.range n).flatMap fun _ => l := by
  rw [List.flatMap, List.map_const', List.length_range]

end Sys2Proof.Machine

open Sys2Proof Sys2Proof.Machine

/-- Settles O23: the nested concatenation of R100, and its length factor by factor. -/
theorem traceIsBurstsOfFramesAndFiller : Obligations.TraceIsBurstsOfFramesAndFiller := by
  refine fun p c pad r => ⟨trace_length p c pad r, ?shape, fun hB => ?noBursts, fun hF => ?noFrames⟩
  case shape => simp only [← flatten_replicate_eq_flatMap]; rfl
  case noBursts => rw [trace, hB]; rfl
  case noFrames =>
    have hburst : burstBeats p c pad r = List.replicate r.eobWords.toNat fillerBeat := by
      rw [burstBeats, hF]; rfl
    rw [trace, bursts, hburst, List.flatten_replicate_replicate]
    rfl

end

section
/-! A turn of a run keeps the invariant and goes on by one beat or one boundary step (43_serializer R102 to R107): the moves of the
sequencer one by one, and then everything a turn of a run can do. -/

namespace Sys2Proof.Machine

/-! ### The invariant over a change of the sequencer -/

/-- The invariant says nothing of the CRC port, the host and the events to come. -/
theorem State.Inv.withEnvironment {s : State} (h : s.Inv) (v : Word) (a : HostAgent) (es : List Event) :
    (((s.withHcrc v).withAgent a).withSchedule es).Inv :=
  ⟨h.busy_not_done, h.error_ended, h.cancelled_done, h.stop_busy, h.run_checked, h.burst_bound, h.frame_bound, h.byte_bound,
    h.fill_bound, h.sent_counts, h.fcs_folds, h.last_fcs, h.beats_formed⟩

theorem State.Inv.emit {s : State} (h : s.Inv) {b : Beat} (hb : b.wellFormed) : (s.emit b).Inv :=
  ⟨h.busy_not_done, h.error_ended, h.cancelled_done, h.stop_busy, h.run_checked, h.burst_bound, h.frame_bound, h.byte_bound,
    h.fill_bound, h.sent_counts, h.fcs_folds, h.last_fcs, fun b' hb' => by
      obtain hb' | hb' := List.mem_append.mp hb'
      · exact h.beats_formed b' hb'
      · rwa [List.mem_singleton.mp hb']⟩

/-- No error code stands during a run (10_state R18). -/
theorem State.Inv.err_of_busy {s : State} (h : s.Inv) (hb : s.busy = true) : s.status.err = .none := by
  by_contra he
  obtain ⟨_, hi, _⟩ := h.error_ended he
  cases hb.symm.trans hi

/-- The sequencer of a run may move to any position within the bounds, where the frames done are those sent. -/
theorem State.Inv.withSeq {s : State} (h : s.Inv) (hb : s.busy = true) (q : Sequencer) (hq : q.phase ≠ .idle)
    (burst : q.burst.toNat ≤ s.totalBursts ∧ (q.phase ≠ .burstTop → q.burst.toNat < s.totalBursts))
    (frame : q.frame.toNat ≤ s.framesPerBurst ∧ (q.phase = .frame ∨ q.phase = .ifg → q.frame.toNat < s.framesPerBurst) ∧
      (q.phase = .eob → q.frame.toNat = s.framesPerBurst))
    (byte : q.byte.toNat ≤ s.cfg.frameBytes ∧ (q.phase = .frame → q.byte.toNat < s.cfg.frameBytes ∧ q.byte.toNat % 4 = 0))
    (fill : (q.phase = .ifg → q.fill.toNat ≤ s.plan.ifgWords.toNat) ∧ (q.phase = .eob → q.fill.toNat ≤ s.plan.eobWords.toNat))
    (sent : (s.withSeq q).framesDone = s.framesDone)
    (fcs : q.phase = .frame →
      q.fcs = crcFold crcInitValue (bodyPrefix s.params s.cfg (min q.byte.toNat (s.cfg.frameBytes - 4)))) :
    (s.withSeq q).Inv := by
  have hbq : (s.withSeq q).busy = true := (State.busy_eq_true _).mpr hq
  exact ⟨fun _ => h.busy_not_done hb, absurd (h.err_of_busy hb), h.cancelled_done, fun _ => hbq, fun _ => h.run_checked hb,
    fun _ => burst, fun _ => frame, fun _ => byte, fill, fun _ => (h.sent_counts hb).trans sent.symm, fcs,
    fun _ => h.last_fcs hb, h.beats_formed⟩

/-- The end of a run, either way. -/
theorem State.Inv.finish {s : State} (h : s.Inv) (hb : s.busy = true) (how : Bool) : (s.finish how).Inv := by
  exact ⟨nofun, absurd (h.err_of_busy hb), fun _ => rfl, nofun, nofun, nofun, nofun, nofun, ⟨nofun, nofun⟩, nofun, nofun, nofun,
    h.beats_formed⟩

/-! ### Counting without wrapping -/

theorem Count.toNat_sub_one {n : Count} (h : n ≠ 0#64) : (n - 1#64).toNat = n.toNat - 1 := by
  have hpos : 1 ≤ n.toNat := Nat.one_le_iff_ne_zero.mpr fun e => h (BitVec.eq_of_toNat_eq e)
  exact BitVec.toNat_sub_of_le (BitVec.le_def.mpr hpos)

section
variable {s : State} (h : s.Inv)
include h

theorem State.Inv.frame_succ (hp : s.seq.phase = .ifg) : (s.seq.frame + 1#32).toNat = s.seq.frame.toNat + 1 := by
  have hlt := (h.frame_bound (by simp [hp])).2.1 (.inr hp)
  have hF : s.framesPerBurst < 2 ^ 32 := s.cfg.framesPerBurst.isLt
  exact BitVec.toNat_add_of_lt (by simp; omega)

theorem State.Inv.burst_succ (hp : s.seq.phase = .eob) : (s.seq.burst + 1#64).toNat = s.seq.burst.toNat + 1 := by
  have hlt := (h.burst_bound (by simp [hp])).2 (by simp [hp])
  have hB : s.totalBursts < 2 ^ 64 := s.plan.totalBursts.isLt
  exact BitVec.toNat_add_of_lt (by simp; omega)

end

/-! ### The moves of a run -/

section
variable {s : State} (h : s.Inv)
include h

theorem State.Inv.enterBurst (hp : s.seq.phase = .burstTop) (hn : s.seq.burst ≠ s.plan.totalBursts) :
    (s.withSeq { s.seq with frame := 0#32, phase := .frameTop }).Inv := by
  have hb : s.busy = true := by simp [hp]
  have hle := (h.burst_bound hb).1
  have hlt : s.seq.burst.toNat < s.totalBursts := lt_of_le_of_ne hle fun e => hn (BitVec.eq_of_toNat_eq e)
  refine h.withSeq hb _ nofun ⟨hle, fun _ => hlt⟩ ⟨Nat.zero_le _, ?_, nofun⟩ ⟨(h.byte_bound hb).1, nofun⟩ ⟨nofun, nofun⟩ ?_ nofun
  · rintro (hc | hc) <;> cases hc
  · simp [State.framesDone, hp, State.framesPerBurst]

theorem State.Inv.enterEob (hp : s.seq.phase = .frameTop) (hl : s.seq.frame = s.cfg.framesPerBurst) :
    (s.withSeq { s.seq with fill := s.plan.eobWords, phase := .eob }).Inv := by
  have hb : s.busy = true := by simp [hp]
  obtain ⟨hle, hlt⟩ := h.burst_bound hb
  refine h.withSeq hb _ nofun ⟨hle, fun _ => hlt (by simp [hp])⟩
    ⟨(h.frame_bound hb).1, ?_, fun _ => congrArg BitVec.toNat hl⟩ ⟨(h.byte_bound hb).1, nofun⟩
    ⟨nofun, fun _ => Nat.le_refl _⟩ ?_ nofun
  · rintro (hc | hc) <;> cases hc
  · simp [State.framesDone, hp, State.framesPerBurst]

/-- Some frame of some burst is left at `FRAME_TOP`, so the size check has passed. -/
theorem State.Inv.enterFrame (hp : s.seq.phase = .frameTop) (hn : s.seq.frame ≠ s.cfg.framesPerBurst) :
    (s.withSeq { s.seq with byte := 0#32, fcs := crcInitValue, phase := .frame }).Inv := by
  have hb : s.busy = true := by simp [hp]
  obtain ⟨hle, hlt⟩ := h.burst_bound hb
  have hburst := hlt (by simp [hp])
  have hframe : s.seq.frame.toNat < s.framesPerBurst :=
    lt_of_le_of_ne (h.frame_bound hb).1 fun e => hn (BitVec.eq_of_toNat_eq e)
  obtain ⟨_, _, hsize, hplan⟩ := h.run_checked hb
  have hS : 26 ≤ s.cfg.frameBytes := by
    refine frameBytes_of_sizeOk hsize ?_ (Nat.zero_lt_of_lt hframe)
    rw [← planRegs_totalBursts, ← hplan]
    exact Nat.zero_lt_of_lt hburst
  refine h.withSeq hb _ nofun ⟨hle, fun _ => hburst⟩ ⟨hframe.le, fun _ => hframe, nofun⟩
    ⟨Nat.zero_le _, fun _ => ⟨?_, rfl⟩⟩ ⟨nofun, nofun⟩ ?_ fun _ => ?_
  · show 0 < s.cfg.frameBytes
    omega
  · simp [State.framesDone, hp, State.framesPerBurst]
  · simp [bodyPrefix, crcFold]

theorem State.Inv.emitFrameBeat (hp : s.seq.phase = .frame) (hlt : s.seq.byte.toNat + 4 < s.cfg.frameBytes) :
    s.stepFrame.Inv := by
  have hb : s.busy = true := by simp [hp]
  have hbyte := s.byte_add_four hlt
  have hmod := (h.byte_lt hp).2
  rw [h.stepFrame_of_lt hp hlt]
  refine (h.emit (h.nextBeat_wellFormed hp)).withSeq hb _ (by simp [hp]) (h.burst_bound hb) (h.frame_bound hb)
    ⟨?_, fun _ => ⟨?_, ?_⟩⟩ (h.fill_bound) rfl fun _ => ?_
  · show (s.seq.byte + 4#32).toNat ≤ s.cfg.frameBytes
    omega
  · show (s.seq.byte + 4#32).toNat < s.cfg.frameBytes
    omega
  · show (s.seq.byte + 4#32).toNat % 4 = 0
    omega
  · show _ = crcFold _ (bodyPrefix _ _ (min (s.seq.byte + 4#32).toNat _))
    rw [hbyte]
    rfl

theorem State.Inv.emitLastFrameBeat (hp : s.seq.phase = .frame) (hle : s.cfg.frameBytes ≤ s.seq.byte.toNat + 4) :
    s.stepFrame.Inv := by
  have hb : s.busy = true := by simp [hp]
  have hsent : (s.framesSent + 1#64).toNat = s.framesSent.toNat + 1 := by
    have := h.framesSent_lt_of_frame hp
    have := h.total_lt hb
    rw [BitVec.toNat_add_of_lt (by simp; omega)]
    rfl
  have hne : s.framesSent + 1#64 ≠ 0#64 := fun e => by
    rw [e] at hsent
    simp at hsent
  obtain ⟨_, hlt⟩ := h.burst_bound hb
  obtain ⟨_, hframe, _⟩ := h.frame_bound hb
  have hburst := hlt (by simp [hp])
  have hbeats := (h.emit (h.nextBeat_wellFormed hp)).beats_formed
  rw [h.stepFrame_of_last hp hle]
  refine ⟨fun _ => h.busy_not_done hb, absurd (h.err_of_busy hb), h.cancelled_done, fun _ => rfl, fun _ => h.run_checked hb,
    fun _ => ⟨hburst.le, fun _ => hburst⟩, fun _ => ⟨(hframe (.inl hp)).le, fun _ => hframe (.inl hp), nofun⟩,
    fun _ => ⟨Nat.le_refl _, nofun⟩, ⟨fun _ => ?_, nofun⟩, fun _ => ?_, nofun, fun _ => (if_neg hne).symm, hbeats⟩
  · show (s.plan.ifgWords.setWidth 64).toNat ≤ s.plan.ifgWords.toNat
    simpa using Nat.mod_le _ _
  · refine hsent.trans ?_
    rw [h.sent_counts hb]
    simp only [State.framesDone, State.withSeq_seq, hp]
    rfl

theorem State.Inv.emitFiller (hp : s.seq.phase = .ifg ∨ s.seq.phase = .eob) (hf : s.seq.fill ≠ 0#64) : s.emitFiller.Inv := by
  have hb : s.busy = true := by obtain hp | hp := hp <;> simp [hp]
  obtain ⟨hifg, heob⟩ := h.fill_bound
  have hfill : (s.seq.fill - 1#64).toNat ≤ s.seq.fill.toNat := by rw [Count.toNat_sub_one hf]; exact Nat.sub_le _ _
  exact (h.emit fillerBeat_wellFormed).withSeq hb _ ((s.busy_eq_true).mp hb) (h.burst_bound hb) (h.frame_bound hb)
    (h.byte_bound hb) ⟨fun hi => hfill.trans (hifg hi), fun he => hfill.trans (heob he)⟩ rfl h.fcs_folds

theorem State.Inv.leaveIfg (hp : s.seq.phase = .ifg) : s.leaveIfg.Inv := by
  have hb : s.busy = true := by simp [hp]
  obtain ⟨hle, hlt⟩ := h.burst_bound hb
  obtain ⟨_, hframe, _⟩ := h.frame_bound hb
  have hF := hframe (.inr hp)
  have hadd := h.frame_succ hp
  refine h.withSeq hb _ nofun ⟨hle, fun _ => hlt (by simp [hp])⟩ ⟨?_, ?_, nofun⟩ ⟨(h.byte_bound hb).1, nofun⟩ ⟨nofun, nofun⟩ ?_ nofun
  · exact hadd.trans_le hF
  · rintro (hc | hc) <;> cases hc
  · simp only [State.framesDone, State.withSeq_seq, hp, hadd]
    rfl

theorem State.Inv.leaveEob (hp : s.seq.phase = .eob) : s.leaveEob.Inv := by
  have hb : s.busy = true := by simp [hp]
  obtain ⟨_, hlt⟩ := h.burst_bound hb
  obtain ⟨hle, _, hframe⟩ := h.frame_bound hb
  have hB := hlt (by simp [hp])
  have hadd := h.burst_succ hp
  refine h.withSeq hb _ nofun ⟨hadd.trans_le hB, fun hc => absurd rfl hc⟩ ⟨hle, ?_, nofun⟩ ⟨(h.byte_bound hb).1, nofun⟩
    ⟨nofun, nofun⟩ ?_ nofun
  · rintro (hc | hc) <;> cases hc
  · simp only [State.framesDone, State.withSeq_seq, hp, hadd, hframe hp, Nat.succ_mul]
    rfl

end

end Sys2Proof.Machine
end

section
/-! The position of a run as beats (43_serializer R109): what it has emitted in each phase, that the trace begins with these beats, and
how the beats and boundary steps behind it are counted. -/

namespace Sys2Proof.Machine

/-! ### What stands before a frame -/

theorem State.before_zero (s : State) : s.before 0 0 = [] := rfl

/-- One more frame adds its beats and its filler. -/
theorem State.before_succ_frame (s : State) (b f : Nat) :
    s.before b (f + 1) =
      s.before b f ++ (frameBeats s.params s.cfg s.padToWord ++ filler s.plan.ifgWords.toNat) := by
  rw [State.before, frameUnits_succ, ← List.append_assoc, ← State.before]

/-- Past the last frame of a burst stands its end-of-burst filler. -/
theorem State.before_succ_burst (s : State) (b : Nat) :
    s.before (b + 1) 0 = s.before b s.framesPerBurst ++ filler s.plan.eobWords.toNat := by
  rw [State.before, bursts_succ, ← List.append_assoc]
  exact List.append_nil _

theorem State.runTrace_eq (s : State) : s.runTrace = s.before s.totalBursts 0 := (List.append_nil _).symm

theorem State.before_prefix_frame (s : State) (b : Nat) {f g : Nat} (hfg : f ≤ g) : s.before b f <+: s.before b g := by
  induction g, hfg using Nat.le_induction with
  | base => exact List.prefix_refl _
  | succ g _ ih => exact ih.trans (s.before_succ_frame b g ▸ List.prefix_append _ _)

theorem State.before_prefix_burst (s : State) {a b : Nat} (hab : a ≤ b) : s.before a 0 <+: s.before b 0 := by
  induction b, hab using Nat.le_induction with
  | base => exact List.prefix_refl _
  | succ b _ ih =>
    refine ih.trans ((s.before_prefix_frame b (Nat.zero_le s.framesPerBurst)).trans ?_)
    exact s.before_succ_burst b ▸ List.prefix_append _ _

/-- One beat counted off is one more filler beat emitted. -/
theorem filler_count_off {fill : Count} {n : Nat} (hf : fill ≠ 0#64) (hle : fill.toNat ≤ n) :
    filler (n - (fill - 1#64).toNat) = filler (n - fill.toNat) ++ [fillerBeat] := by
  have hpos : fill.toNat ≠ 0 := fun e => hf (BitVec.eq_of_toNat_eq e)
  rw [Count.toNat_sub_one hf, show n - (fill.toNat - 1) = n - fill.toNat + 1 by omega, filler, List.replicate_succ', filler]

theorem filler_prefix {m n : Nat} (h : m ≤ n) : filler m <+: filler n :=
  ⟨filler (n - m), by rw [filler, filler, List.replicate_append_replicate, Nat.add_sub_cancel' h, filler]⟩

/-- A burst of the run, whole, is within the trace. -/
theorem State.before_burst_prefix_runTrace (s : State) {b : Nat} (h : b < s.totalBursts) :
    s.before b s.framesPerBurst ++ filler s.plan.eobWords.toNat <+: s.runTrace := by
  rw [← s.before_succ_burst, s.runTrace_eq]
  exact s.before_prefix_burst h

theorem State.before_prefix_runTrace (s : State) {b f : Nat} (hb : b < s.totalBursts) (hf : f ≤ s.framesPerBurst) :
    s.before b f <+: s.runTrace :=
  ((s.before_prefix_frame b hf).trans (List.prefix_append _ _)).trans (s.before_burst_prefix_runTrace hb)

/-! ### The beats up to the position -/

section
variable {s : State}

theorem State.progress_of_burstTop (hp : s.seq.phase = .burstTop) : s.progress = s.before s.seq.burst.toNat 0 := by
  rw [State.progress, State.burstProgress, hp]
  rfl

theorem State.progress_of_frameTop (hp : s.seq.phase = .frameTop) :
    s.progress = s.before s.seq.burst.toNat s.seq.frame.toNat := by
  rw [State.progress, State.burstProgress, hp]
  rfl

theorem State.progress_of_frame (hp : s.seq.phase = .frame) :
    s.progress = s.before s.seq.burst.toNat s.seq.frame.toNat ++
      (frameBeats s.params s.cfg s.padToWord).take (s.seq.byte.toNat / 4) := by
  rw [State.progress, State.burstProgress, hp]
  exact (List.append_assoc _ _ _).symm

theorem State.progress_of_ifg (hp : s.seq.phase = .ifg) :
    s.progress = s.before s.seq.burst.toNat s.seq.frame.toNat ++
      (frameBeats s.params s.cfg s.padToWord ++ filler (s.plan.ifgWords.toNat - s.seq.fill.toNat)) := by
  rw [State.progress, State.burstProgress, hp]
  simp [State.before]

theorem State.progress_of_eob (hp : s.seq.phase = .eob) :
    s.progress = s.before s.seq.burst.toNat s.framesPerBurst ++
      filler (s.plan.eobWords.toNat - s.seq.fill.toNat) := by
  rw [State.progress, State.burstProgress, hp]
  exact (List.append_assoc _ _ _).symm

end

/-- The trace of a run begins with the beats up to its position (43_serializer R109). -/
theorem State.Inv.progress_prefix {s : State} (h : s.Inv) (hb : s.busy = true) : s.progress <+: s.runTrace := by
  obtain ⟨hle, hlt⟩ := h.burst_bound hb
  obtain ⟨hframe, hinside, _⟩ := h.frame_bound hb
  have inside : s.seq.phase = .frame ∨ s.seq.phase = .ifg → ∀ {bs : List Beat},
      bs <+: frameBeats s.params s.cfg s.padToWord ++ filler s.plan.ifgWords.toNat →
      s.before s.seq.burst.toNat s.seq.frame.toNat ++ bs <+: s.runTrace := by
    intro hp bs hbs
    refine List.IsPrefix.trans ?_ (s.before_prefix_runTrace (hlt (by obtain hp | hp := hp <;> simp [hp])) (hinside hp))
    rw [s.before_succ_frame]
    exact (List.prefix_append_right_inj _).mpr hbs
  cases hp : s.seq.phase with
  | idle => exact absurd hp (s.busy_eq_true.mp hb)
  | burstTop =>
    rw [State.progress_of_burstTop hp, s.runTrace_eq]
    exact s.before_prefix_burst hle
  | frameTop =>
    rw [State.progress_of_frameTop hp]
    exact s.before_prefix_runTrace (hlt (by simp [hp])) hframe
  | frame =>
    rw [State.progress_of_frame hp]
    exact inside (.inl hp) ((List.take_prefix _ _).trans (List.prefix_append _ _))
  | ifg =>
    rw [State.progress_of_ifg hp]
    exact inside (.inr hp) ((List.prefix_append_right_inj _).mpr (filler_prefix (Nat.sub_le _ _)))
  | eob =>
    rw [State.progress_of_eob hp]
    refine List.IsPrefix.trans ?_ (s.before_burst_prefix_runTrace (hlt (by simp [hp])))
    exact (List.prefix_append_right_inj _).mpr (filler_prefix (Nat.sub_le _ _))

/-! ### Counting the steps behind the position -/

/-- The boundary steps of the current burst up to the position: one at `BURST_TOP`, two for each frame, one at the last `FRAME_TOP`.
The one that leaves `EOB` is the burst's last. -/
def State.burstBoundaries (s : State) : Nat :=
  match s.seq.phase with
  | .idle | .burstTop => 0
  | .frameTop => 2 * s.seq.frame.toNat + 1
  | .frame | .ifg => 2 * s.seq.frame.toNat + 2
  | .eob => 2 * s.framesPerBurst + 2

/-- The boundary steps of the run up to the position: `2 * F + 3` for each burst behind it (43_serializer R110 (b)). -/
def State.boundaries (s : State) : Nat := s.seq.burst.toNat * (2 * s.framesPerBurst + 3) + s.burstBoundaries

/-- The beats and boundary steps of the run up to the position. -/
def State.stepsDone (s : State) : Nat := s.progress.length + s.boundaries

theorem State.Inv.burstBoundaries_lt {s : State} (h : s.Inv) (hb : s.busy = true) :
    s.burstBoundaries < 2 * s.framesPerBurst + 3 := by
  obtain ⟨hle, hlt, _⟩ := h.frame_bound hb
  unfold State.burstBoundaries
  cases hp : s.seq.phase <;> dsimp only
  case frame => have := hlt (.inl hp); omega
  case ifg => have := hlt (.inr hp); omega
  all_goals omega

theorem State.Inv.boundaries_le {s : State} (h : s.Inv) (hb : s.busy = true) :
    s.boundaries ≤ s.totalBursts * (2 * s.framesPerBurst + 3) := by
  obtain ⟨hle, hlt⟩ := h.burst_bound hb
  by_cases hp : s.seq.phase = .burstTop
  · rw [State.boundaries, State.burstBoundaries, hp]
    exact Nat.mul_le_mul_right _ hle
  · have hmul := Nat.mul_le_mul_right (2 * s.framesPerBurst + 3) (hlt hp)
    have := h.burstBoundaries_lt hb
    rw [Nat.succ_mul] at hmul
    unfold State.boundaries
    omega

/-- A run that goes on has a step to come. -/
theorem State.Inv.stepsDone_lt {s : State} (h : s.Inv) (hb : s.busy = true) : s.stepsDone < s.runSteps := by
  have := (h.progress_prefix hb).length_le
  have := h.boundaries_le hb
  unfold State.stepsDone State.runSteps
  omega

/-- The boundary steps behind it say in which burst a run stands. -/
theorem State.Inv.burst_of_boundaries {s : State} (h : s.Inv) (hb : s.busy = true) {b y : Nat}
    (hy : y < 2 * s.framesPerBurst + 3) (e : s.boundaries = b * (2 * s.framesPerBurst + 3) + y) :
    s.seq.burst.toNat = b ∧ s.burstBoundaries = y := by
  have hx := h.burstBoundaries_lt hb
  rw [State.boundaries, Nat.mul_comm, Nat.mul_comm b] at e
  have hdiv := congrArg (· / (2 * s.framesPerBurst + 3)) e
  simp only [Nat.mul_add_div (Nat.zero_lt_of_lt hx), Nat.div_eq_of_lt hx, Nat.div_eq_of_lt hy, Nat.add_zero] at hdiv
  rw [hdiv] at e
  exact ⟨hdiv, Nat.add_left_cancel e⟩

end Sys2Proof.Machine
end

section
/-! Everything a turn of a run can do: wait for the sink, go on by one beat or one boundary step, or end the run. -/

namespace Sys2Proof.Machine

/-- From `s` the run has gone on to `t` by one step, which emits the next beats of its trace (one or none) or is a boundary step. -/
structure State.Advances (s t : State) : Prop where
  inv : t.Inv
  busy : t.busy = true
  stopReq : t.seq.stopReq = s.seq.stopReq
  emits : ∃ bs, t.stream = s.stream ++ bs ∧ t.progress = s.progress ++ bs ∧ bs.length + t.boundaries = s.boundaries + 1

/-- A pending stop cancels the run here, before frame `f` of burst `b` (43_serializer R102, R103). -/
def State.StopsAt (s : State) (b f : Nat) : Prop :=
  s.seq.burst.toNat = b ∧
    (s.seq.phase = .burstTop ∧ s.seq.burst ≠ s.plan.totalBursts ∧ f = 0 ∨
      s.seq.phase = .frameTop ∧ s.seq.frame ≠ s.cfg.framesPerBurst ∧ f = s.seq.frame.toNat)

/-! ### Going on -/

/-- A boundary step emits nothing. -/
theorem State.Advances.of_boundary {s : State} {q : Sequencer} (inv : (s.withSeq q).Inv) (hq : q.phase ≠ .idle)
    (stopReq : q.stopReq = s.seq.stopReq) (progress : (s.withSeq q).progress = s.progress)
    (boundaries : (s.withSeq q).boundaries = s.boundaries + 1) : s.Advances (s.withSeq q) :=
  ⟨inv, (State.busy_eq_true _).mpr hq, stopReq, [], by simp, by simp [progress], by simp [boundaries]⟩

/-- A beat is no boundary step. -/
theorem State.Advances.of_beat {s t : State} {b : Beat} (inv : t.Inv) (busy : t.busy = true)
    (stopReq : t.seq.stopReq = s.seq.stopReq) (stream : t.stream = s.stream ++ [b]) (progress : t.progress = s.progress ++ [b])
    (boundaries : t.boundaries = s.boundaries) : s.Advances t :=
  ⟨inv, busy, stopReq, [b], stream, progress, by rw [boundaries]; exact Nat.add_comm _ _⟩

section
variable {s : State} (h : s.Inv)
include h

theorem State.Inv.advances_enterBurst (hp : s.seq.phase = .burstTop) (hn : s.seq.burst ≠ s.plan.totalBursts) :
    s.Advances (s.withSeq { s.seq with frame := 0#32, phase := .frameTop }) := by
  refine .of_boundary (h.enterBurst hp hn) nofun rfl ?_ ?_
  · rw [State.progress_of_burstTop hp, State.progress_of_frameTop rfl]
    rfl
  · simp only [State.boundaries, State.burstBoundaries, hp, State.withSeq_seq]
    rfl

theorem State.Inv.advances_enterEob (hp : s.seq.phase = .frameTop) (hl : s.seq.frame = s.cfg.framesPerBurst) :
    s.Advances (s.withSeq { s.seq with fill := s.plan.eobWords, phase := .eob }) := by
  have hF : s.seq.frame.toNat = s.framesPerBurst := congrArg BitVec.toNat hl
  refine .of_boundary (h.enterEob hp hl) nofun rfl ?_ ?_
  · rw [State.progress_of_frameTop hp, hF, State.progress_of_eob rfl]
    simp only [State.withSeq_seq, State.withSeq_plan, Nat.sub_self]
    exact List.append_nil _
  · simp only [State.boundaries, State.burstBoundaries, hp, hF, State.withSeq_seq]
    rfl

theorem State.Inv.advances_enterFrame (hp : s.seq.phase = .frameTop) (hn : s.seq.frame ≠ s.cfg.framesPerBurst) :
    s.Advances (s.withSeq { s.seq with byte := 0#32, fcs := crcInitValue, phase := .frame }) := by
  refine .of_boundary (h.enterFrame hp hn) nofun rfl ?_ ?_
  · rw [State.progress_of_frameTop hp, State.progress_of_frame rfl]
    simp only [State.withSeq_seq, BitVec.toNat_zero, Nat.zero_div, List.take_zero, List.append_nil]
    rfl
  · simp only [State.boundaries, State.burstBoundaries, hp, State.withSeq_seq]
    rfl

theorem State.Inv.advances_leaveIfg (hp : s.seq.phase = .ifg) (hf : s.seq.fill = 0#64) : s.Advances s.leaveIfg := by
  refine .of_boundary (h.leaveIfg hp) nofun rfl ?_ ?_
  · rw [State.progress_of_ifg hp, State.progress_of_frameTop rfl, hf]
    simp only [State.withSeq_seq, h.frame_succ hp]
    exact s.before_succ_frame _ _
  · simp only [State.boundaries, State.burstBoundaries, hp, State.withSeq_seq, h.frame_succ hp]
    rfl

theorem State.Inv.advances_leaveEob (hp : s.seq.phase = .eob) (hf : s.seq.fill = 0#64) : s.Advances s.leaveEob := by
  refine .of_boundary (h.leaveEob hp) nofun rfl ?_ ?_
  · rw [State.progress_of_eob hp, State.progress_of_burstTop rfl, hf]
    simp only [State.withSeq_seq, h.burst_succ hp]
    exact s.before_succ_burst _
  · simp only [State.boundaries, State.burstBoundaries, hp, State.withSeq_seq, h.burst_succ hp, Nat.succ_mul]
    rfl

theorem State.Inv.frameBeats_take_succ (hp : s.seq.phase = .frame) :
    (frameBeats s.params s.cfg s.padToWord).take (s.seq.byte.toNat / 4 + 1) =
      (frameBeats s.params s.cfg s.padToWord).take (s.seq.byte.toNat / 4) ++ [s.nextBeat] := by
  rw [List.take_add_one, h.frameBeats_getElem?_nextBeat hp]
  rfl

theorem State.Inv.advances_frameBeat (hp : s.seq.phase = .frame) (hlt : s.seq.byte.toNat + 4 < s.cfg.frameBytes) :
    s.Advances s.stepFrame := by
  have hinv := h.emitFrameBeat hp hlt
  rw [h.stepFrame_of_lt hp hlt] at hinv ⊢
  refine .of_beat hinv (by simp [hp]) rfl rfl ?_ ?_
  · rw [State.progress_of_frame hp, State.progress_of_frame (by simp [hp]), List.append_assoc, ← h.frameBeats_take_succ hp]
    simp only [State.withSeq_seq, s.byte_add_four hlt, Nat.add_div_right _ (Nat.zero_lt_succ 3)]
    rfl
  · simp only [State.boundaries, State.burstBoundaries, hp, State.withSeq_seq]
    rfl

theorem State.Inv.advances_lastFrameBeat (hp : s.seq.phase = .frame) (hle : s.cfg.frameBytes ≤ s.seq.byte.toNat + 4) :
    s.Advances s.stepFrame := by
  have hinv := h.emitLastFrameBeat hp hle
  have hmod := (h.byte_lt hp).2
  have hall : (frameBeats s.params s.cfg s.padToWord).take (s.seq.byte.toNat / 4 + 1) = frameBeats s.params s.cfg s.padToWord :=
    List.take_of_length_le (by rw [frameBeats_length]; omega)
  rw [h.stepFrame_of_last hp hle] at hinv ⊢
  refine .of_beat hinv rfl rfl rfl ?_ ?_
  · rw [State.progress_of_frame hp, State.progress_of_ifg rfl, List.append_assoc, ← h.frameBeats_take_succ hp, hall]
    have hfill : (s.plan.ifgWords.setWidth 64).toNat = s.plan.ifgWords.toNat := BitVec.toNat_setWidth_of_le (by decide)
    show s.before _ _ ++ (_ ++ filler (s.plan.ifgWords.toNat - (s.plan.ifgWords.setWidth 64).toNat)) = _
    rw [hfill, Nat.sub_self]
    exact congrArg _ (List.append_nil _)
  · simp only [State.boundaries, State.burstBoundaries, hp, State.withSeq_seq]
    rfl

theorem State.Inv.advances_filler (hp : s.seq.phase = .ifg ∨ s.seq.phase = .eob) (hf : s.seq.fill ≠ 0#64) :
    s.Advances s.emitFiller := by
  have hb : s.busy = true := by obtain hp | hp := hp <;> simp [hp]
  obtain ⟨hifg, heob⟩ := h.fill_bound
  refine .of_beat (h.emitFiller hp hf) hb rfl rfl ?_ rfl
  obtain hp | hp := hp
  · rw [State.progress_of_ifg hp, State.progress_of_ifg (s := s.emitFiller) hp, List.append_assoc, List.append_assoc,
      ← filler_count_off hf (hifg hp)]
    rfl
  · rw [State.progress_of_eob hp, State.progress_of_eob (s := s.emitFiller) hp, List.append_assoc,
      ← filler_count_off hf (heob hp)]
    rfl

end

/-! ### Ending -/

section
variable {s : State} {b f : Nat} (h : s.StopsAt b f)
include h

theorem State.StopsAt.turn (hq : s.seq.stopReq = true) (ready : Bool) : s.turn ready = s.finish true := by
  obtain ⟨_, ⟨hp, hn, _⟩ | ⟨hp, hn, _⟩⟩ := h
  · exact (State.turn_samples_stop ready (.inl ⟨hp, hn⟩)).1 hq
  · exact (State.turn_samples_stop ready (.inr ⟨hp, hn⟩)).1 hq

theorem State.StopsAt.busy : s.busy = true := by
  obtain ⟨_, ⟨hp, _⟩ | ⟨hp, _⟩⟩ := h <;> simp [hp]

theorem State.StopsAt.progress : s.progress = s.before b f := by
  obtain ⟨rfl, ⟨hp, _, rfl⟩ | ⟨hp, _, rfl⟩⟩ := h
  · exact State.progress_of_burstTop hp
  · exact State.progress_of_frameTop hp

theorem State.StopsAt.bounds (hinv : s.Inv) : b < s.totalBursts ∧ (f < s.framesPerBurst ∨ f = 0) := by
  obtain ⟨hle, hlt⟩ := hinv.burst_bound h.busy
  obtain ⟨rfl, ⟨_, hn, rfl⟩ | ⟨hp, hn, rfl⟩⟩ := h
  · exact ⟨lt_of_le_of_ne hle fun e => hn (BitVec.eq_of_toNat_eq e), .inr rfl⟩
  · have hframe := (hinv.frame_bound (by simp [hp])).1
    exact ⟨hlt (by simp [hp]), .inl (lt_of_le_of_ne hframe fun e => hn (BitVec.eq_of_toNat_eq e))⟩

theorem State.StopsAt.framesSent (hinv : s.Inv) : s.framesSent.toNat = b * s.framesPerBurst + f := by
  rw [hinv.sent_counts h.busy, State.framesDone]
  obtain ⟨rfl, ⟨hp, _, rfl⟩ | ⟨hp, _, rfl⟩⟩ := h <;> rw [hp]
  rfl

end

/-- How a run ends is in `CANCELLED`, and `ERR` is 0 (43_serializer R107). -/
theorem State.Inv.finish_status {s : State} (h : s.Inv) (hb : s.busy = true) (how : Bool) :
    (s.finish how).status = ⟨true, how, .none⟩ := by
  rw [← h.err_of_busy hb]
  rfl

/-- With all bursts drained the whole trace has been emitted, and all frames are sent. -/
theorem State.Inv.drained {s : State} (h : s.Inv) (hp : s.seq.phase = .burstTop) (hl : s.seq.burst = s.plan.totalBursts) :
    s.progress = s.runTrace ∧ s.framesSent.toNat = s.totalBursts * s.framesPerBurst ∧ s.stepsDone + 1 = s.runSteps := by
  have hB : s.seq.burst.toNat = s.totalBursts := congrArg BitVec.toNat hl
  have hprogress : s.progress = s.runTrace := by rw [State.progress_of_burstTop hp, hB, s.runTrace_eq]
  refine ⟨hprogress, ?_, ?_⟩
  · rw [h.sent_counts (by simp [hp]), State.framesDone, hp, ← hB]
  · rw [State.stepsDone, State.runSteps, hprogress, State.boundaries, State.burstBoundaries, hp, hB]
    rfl

/-! ### Every turn -/

/-- What a turn of a run can do. -/
inductive State.TurnOfRun (s : State) : Bool → State → Prop where
  /-- The sink is not ready for the next beat. -/
  | waits : TurnOfRun s false s
  /-- The run goes on. -/
  | advances (ready : Bool) (t : State) : s.Advances t → TurnOfRun s ready t
  /-- All bursts are drained. -/
  | ends (ready : Bool) : s.seq.phase = .burstTop → s.seq.burst = s.plan.totalBursts → TurnOfRun s ready (s.finish false)
  /-- A stop is pending at a boundary with work left. -/
  | cancels (ready : Bool) (b f : Nat) : s.StopsAt b f → s.seq.stopReq = true → TurnOfRun s ready (s.finish true)

theorem State.Inv.turnOfRun {s : State} (h : s.Inv) (hb : s.busy = true) (ready : Bool) :
    s.TurnOfRun ready (s.turn ready) := by
  obtain ⟨hw, e⟩ | ⟨hp, e⟩ | ⟨hp, e⟩ | ⟨hp, _, e⟩ | ⟨hp, hf, e⟩ | ⟨hp, hf, e⟩ | ⟨hp, hf, _, e⟩ := s.turn_cases ready <;> rw [e]
  · obtain hp | ⟨_, rfl⟩ := hw
    · exact absurd hp (s.busy_eq_true.mp hb)
    · exact .waits
  · obtain ⟨hl, e⟩ | ⟨hn, hq, e⟩ | ⟨hn, _, e⟩ := s.stepBurstTop_cases <;> rw [e]
    · exact .ends _ hp hl
    · exact .cancels _ _ 0 ⟨rfl, .inl ⟨hp, hn, rfl⟩⟩ hq
    · exact .advances _ _ (h.advances_enterBurst hp hn)
  · obtain ⟨hl, e⟩ | ⟨hn, hq, e⟩ | ⟨hn, _, e⟩ := s.stepFrameTop_cases <;> rw [e]
    · exact .advances _ _ (h.advances_enterEob hp hl)
    · exact .cancels _ _ _ ⟨rfl, .inr ⟨hp, hn, rfl⟩⟩ hq
    · exact .advances _ _ (h.advances_enterFrame hp hn)
  · obtain hlt | hle := Nat.lt_or_ge (s.seq.byte.toNat + 4) s.cfg.frameBytes
    · exact .advances _ _ (h.advances_frameBeat hp hlt)
    · exact .advances _ _ (h.advances_lastFrameBeat hp hle)
  · exact .advances _ _ (h.advances_leaveIfg hp hf)
  · exact .advances _ _ (h.advances_leaveEob hp hf)
  · exact .advances _ _ (h.advances_filler hp hf)

/-- A sequencer turn keeps the invariant. -/
theorem State.Inv.turn {s : State} (h : s.Inv) (ready : Bool) : (s.turn ready).Inv := by
  cases hb : s.busy with
  | false =>
    have e : s.turn ready = s := by
      have hp := s.busy_eq_false.mp hb
      simp [State.turn, State.candidate, hp]
    rwa [e]
  | true =>
    have ht := h.turnOfRun hb ready
    generalize s.turn ready = t at ht ⊢
    cases ht with
    | waits => exact h
    | advances _ _ ht => exact ht.inv
    | ends _ _ _ => exact h.finish hb false
    | cancels _ _ _ _ _ => exact h.finish hb true

end Sys2Proof.Machine
end

section
/-! A run under every interleaving (43_serializer R109): each step keeps the stream at the beats up to the position, and the step
that ends the run leaves the whole trace or the beats before a frame. -/

namespace Sys2Proof.Machine

/-! ### One run -/

/-- The two states belong to runs with the same trace: nothing that the trace depends on differs. -/
structure State.SameRun (s t : State) : Prop where
  params : t.params = s.params
  cfg : t.cfg = s.cfg
  padToWord : t.padToWord = s.padToWord
  plan : t.plan = s.plan

section
variable {s t : State} (h : s.SameRun t)
include h

theorem State.SameRun.framesPerBurst : t.framesPerBurst = s.framesPerBurst := by
  rw [State.framesPerBurst, State.framesPerBurst, h.cfg]

theorem State.SameRun.totalBursts : t.totalBursts = s.totalBursts := by
  rw [State.totalBursts, State.totalBursts, h.plan]

theorem State.SameRun.before (b f : Nat) : t.before b f = s.before b f := by
  rw [State.before, State.before, h.params, h.cfg, h.padToWord, h.plan]

theorem State.SameRun.runTrace : t.runTrace = s.runTrace := by
  rw [State.runTrace_eq, State.runTrace_eq, h.totalBursts, h.before]

theorem State.SameRun.runSteps : t.runSteps = s.runSteps := by
  rw [State.runSteps, State.runSteps, h.runTrace, h.totalBursts, h.framesPerBurst]

theorem State.SameRun.trans {r : State} (hr : r.SameRun s) : r.SameRun t :=
  ⟨h.params.trans hr.params, h.cfg.trans hr.cfg, h.padToWord.trans hr.padToWord, h.plan.trans hr.plan⟩

end

theorem State.SameRun.refl (s : State) : s.SameRun s := ⟨rfl, rfl, rfl, rfl⟩

theorem State.turn_sameRun (s : State) (ready : Bool) : s.SameRun (s.turn ready) := by
  obtain ⟨hcfg, hpad, hplan, hparams, _⟩ := s.turn_keeps ready
  exact ⟨hparams, hcfg, hpad, hplan⟩

/-! ### One step of a run -/

/-- A turn after which the run goes on keeps the stream at the beats up to the position. -/
theorem State.TurnOfRun.stream_of_busy {s t : State} {ready : Bool} (h : s.TurnOfRun ready t) (hb : t.busy = true)
    {base : List Beat} (hs : s.stream = base ++ s.progress) : t.stream = base ++ t.progress := by
  cases h with
  | waits => exact hs
  | advances _ _ ht =>
    obtain ⟨bs, hstream, hprogress, _⟩ := ht.emits
    rw [hstream, hprogress, hs, List.append_assoc]
  | ends _ _ _ => cases hb
  | cancels _ _ _ _ _ => cases hb

/-- The same for every event. -/
theorem State.Inv.step_goes_on {s s' : State} (h : s.Inv) (hb : s.busy = true) {base : List Beat}
    (hs : s.stream = base ++ s.progress) (hstep : step s = .next s') (hb' : s'.busy = true) :
    s'.stream = base ++ s'.progress ∧ s'.runTrace = s.runTrace := by
  obtain ⟨u, a, es, hu, rfl⟩ := step_effect hstep
  cases hu with
  | none => exact ⟨hs, rfl⟩
  | cfg _ hi => cases hb.symm.trans hi
  | hcrc _ => exact ⟨hs, rfl⟩
  | ctrl x _ => rw [State.writeCtrl_of_busy hb]; exact ⟨hs, rfl⟩
  | turn ready _ _ => exact ⟨(h.turnOfRun hb ready).stream_of_busy hb' hs, (s.turn_sameRun ready).runTrace⟩
  | reset _ _ => cases hb'

/-- Only a turn or a reset ends a run. -/
theorem step_ends_run {s s' : State} (hb : s.busy = true) (hstep : step s = .next s') (hb' : s'.busy = false)
    (hr : ∀ es, s.schedule ≠ .reset :: es) : ∃ ready a es, s' = ((s.turn ready).withAgent a).withSchedule es := by
  obtain ⟨u, a, es, hu, rfl⟩ := step_effect hstep
  cases hu with
  | none => cases hb.symm.trans hb'
  | cfg _ hi => cases hb.symm.trans hi
  | hcrc _ => cases hb.symm.trans hb'
  | ctrl x _ => rw [State.writeCtrl_of_busy hb] at hb'; cases hb.symm.trans hb'
  | turn ready _ _ => exact ⟨ready, a, es, rfl⟩
  | reset es' hs => exact absurd hs (hr es')

/-- A turn that ends a run has drained it, or has cancelled it before a frame. -/
theorem State.Inv.turn_ends {s t : State} {ready : Bool} (h : s.Inv) (hb : s.busy = true) (ht : s.TurnOfRun ready t)
    (hi : t.busy = false) {base : List Beat} (hs : s.stream = base ++ s.progress) :
    (t.status.cancelled = false ∧ t.stream = base ++ s.runTrace ∧ t.framesSent.toNat = s.totalBursts * s.framesPerBurst) ∨
    (t.status.cancelled = true ∧ s.seq.stopReq = true ∧ ∃ b f, b < s.totalBursts ∧ (f < s.framesPerBurst ∨ f = 0) ∧
      t.stream = base ++ s.before b f ∧ s.before b f <+: s.runTrace ∧ t.framesSent.toNat = b * s.framesPerBurst + f) := by
  cases ht with
  | waits => cases hb.symm.trans hi
  | advances _ _ ht => cases ht.busy.symm.trans hi
  | ends _ hp hl =>
    obtain ⟨hprogress, hsent, _⟩ := h.drained hp hl
    exact .inl ⟨rfl, hprogress ▸ hs, hsent⟩
  | cancels _ b f hstop hq =>
    obtain ⟨hb', hf⟩ := hstop.bounds h
    rw [hstop.progress] at hs
    exact .inr ⟨rfl, hq, b, f, hb', hf, hs, s.before_prefix_runTrace hb' (by omega), hstop.framesSent h⟩

/-! ### The run of a START -/

/-- START was accepted in `s`: the run it begins meets the invariant, and nothing of it is behind. -/
theorem State.Inv.start {s : State} (h : s.Inv) (hp : paramError s.cfg = false) (hr : rangeError s.cfg = false)
    (hs : sizeError s.cfg = false) : s.start.Inv ∧ s.start.seq.phase = .burstTop ∧ s.start.seq.burst = 0#64 ∧
      s.start.plan = planRegs s.cfg := by
  rw [State.start_of_accepted hp hr hs]
  refine ⟨⟨fun _ => rfl, fun he => absurd rfl he, nofun, nofun, fun _ => ⟨hp, hr, hs, rfl⟩, fun _ => ⟨Nat.zero_le _, absurd rfl⟩,
    fun _ => ⟨Nat.zero_le _, ?_, nofun⟩, fun _ => ⟨Nat.zero_le _, nofun⟩, ⟨nofun, nofun⟩, fun _ => (Nat.zero_mul _).symm, nofun,
    fun _ => rfl, h.beats_formed⟩, rfl, rfl, rfl⟩
  rintro (hc | hc) <;> cases hc

/-- `t` is a state of the run that began at `r`, with no stop pending. -/
structure State.RunsFrom (r t : State) : Prop where
  inv : t.Inv
  busy : t.busy = true
  noStop : t.seq.stopReq = false
  same : r.SameRun t
  stream : t.stream = r.stream ++ t.progress

/-- `t` is idle after the run that began at `r` has ended normally. -/
structure State.Drained (r t : State) : Prop where
  idle : t.seq.phase = .idle
  status : t.status = ⟨true, false, .none⟩
  stream : t.stream = r.stream ++ r.runTrace
  framesSent : t.framesSent.toNat = r.totalBursts * r.framesPerBurst

theorem State.Inv.start_runsFrom {s : State} (h : s.Inv) (hp : paramError s.cfg = false) (hr : rangeError s.cfg = false)
    (hs : sizeError s.cfg = false) : s.start.RunsFrom s.start ∧ s.start.stepsDone = 0 := by
  obtain ⟨hinv, hphase, hburst, _⟩ := h.start hp hr hs
  have hprogress : s.start.progress = [] := by rw [State.progress_of_burstTop hphase, hburst]; exact State.before_zero _
  refine ⟨⟨hinv, by simp [hphase], s.start_stopReq, .refl _, by rw [hprogress, List.append_nil]⟩, ?_⟩
  rw [State.stepsDone, hprogress, State.boundaries, State.burstBoundaries, hphase, hburst]
  simp

section
variable {r t : State} (h : r.RunsFrom t)
include h

/-- A turn of a run without a stop: the run goes on, by one step unless the sink is not ready, or its last step has ended it. -/
theorem State.RunsFrom.turn (ready : Bool) :
    (r.RunsFrom (t.turn ready) ∧ (ready = false ∧ t.turn ready = t ∨
      (t.turn ready).stepsDone = t.stepsDone + 1 ∧ (t.turn ready).boundaries ≤ t.boundaries + 1)) ∨
    (r.Drained (t.turn ready) ∧ t.stepsDone + 1 = r.runSteps) := by
  have hturn := h.inv.turnOfRun h.busy ready
  have hsame := (t.turn_sameRun ready).trans h.same
  generalize t.turn ready = u at hturn hsame ⊢
  cases hturn with
  | waits => exact .inl ⟨h, .inl ⟨rfl, rfl⟩⟩
  | advances _ _ hu =>
    obtain ⟨bs, _, hprogress, hcount⟩ := hu.emits
    refine .inl ⟨⟨hu.inv, hu.busy, hu.stopReq.trans h.noStop, hsame, ?_⟩, .inr ⟨?_, by omega⟩⟩
    · exact (State.TurnOfRun.advances ready u hu).stream_of_busy hu.busy h.stream
    · rw [State.stepsDone, State.stepsDone, hprogress, List.length_append]
      omega
  | ends _ hp hl =>
    obtain ⟨hprogress, hsent, hsteps⟩ := h.inv.drained hp hl
    refine .inr ⟨⟨rfl, h.inv.finish_status h.busy false, ?_, ?_⟩, hsteps.trans h.same.runSteps⟩
    · rw [← h.same.runTrace, ← hprogress]
      exact h.stream
    · rw [← h.same.totalBursts, ← h.same.framesPerBurst]
      exact hsent
  | cancels _ _ _ _ hq => cases h.noStop.symm.trans hq

/-- With the sink ready every turn is a step, until the last. -/
theorem State.RunsFrom.iterate_turn (n : Nat) (hn : t.stepsDone + n < r.runSteps) :
    r.RunsFrom ((State.turn · true)^[n] t) ∧ ((State.turn · true)^[n] t).stepsDone = t.stepsDone + n := by
  induction n with
  | zero => exact ⟨h, rfl⟩
  | succ n ih =>
    obtain ⟨hrun, hsteps⟩ := ih (by omega)
    rw [Function.iterate_succ_apply']
    obtain ⟨hnext, ⟨hc, _⟩ | ⟨hnew, _⟩⟩ | ⟨_, hlast⟩ := hrun.turn true
    · cases hc
    · exact ⟨hnext, by omega⟩
    · omega

end

/-! ### Reaching a boundary -/

section
variable {s : State} (h : s.Inv) (hb : s.busy = true)
include h hb

/-- The count of boundary steps right before a frame. -/
theorem State.Inv.stopsAt_frameTop {b f : Nat} (hf : f < s.framesPerBurst)
    (e : s.boundaries = b * (2 * s.framesPerBurst + 3) + (2 * f + 1)) : s.StopsAt b f := by
  obtain ⟨hburst, hpos⟩ := h.burst_of_boundaries hb (by omega) e
  unfold State.burstBoundaries at hpos
  cases hp : s.seq.phase <;> simp only [hp] at hpos
  case frameTop =>
    obtain rfl : f = s.seq.frame.toNat := by omega
    exact ⟨hburst, .inr ⟨hp, fun hl => absurd (congrArg BitVec.toNat hl) (Nat.ne_of_lt hf), rfl⟩⟩
  all_goals omega

/-- The count of boundary steps right before a burst. -/
theorem State.Inv.stopsAt_burstTop {b : Nat} (hlt : b < s.totalBursts) (e : s.boundaries = b * (2 * s.framesPerBurst + 3)) :
    s.StopsAt b 0 := by
  obtain ⟨rfl, hpos⟩ := h.burst_of_boundaries hb (Nat.succ_pos _) e
  unfold State.burstBoundaries at hpos
  cases hp : s.seq.phase <;> simp only [hp] at hpos
  case idle => exact absurd hp (s.busy_eq_true.mp hb)
  case burstTop => exact ⟨rfl, .inl ⟨hp, fun hl => absurd (congrArg BitVec.toNat hl) (Nat.ne_of_lt hlt), rfl⟩⟩
  all_goals omega

end

/-- A count that grows by at most one a step takes every value on its way. -/
theorem exists_eq_of_le_succ {f : Nat → Nat} {m v : Nat} (hstep : ∀ n < m, f (n + 1) ≤ f n + 1) (h0 : f 0 ≤ v) (hv : v ≤ f m) :
    ∃ n ≤ m, f n = v := by
  induction m with
  | zero => exact ⟨0, Nat.le_refl 0, Nat.le_antisymm h0 hv⟩
  | succ m ih =>
    by_cases hm : v ≤ f m
    · obtain ⟨n, hn, e⟩ := ih (fun n hn => hstep n (by omega)) hm
      exact ⟨n, by omega, e⟩
    · have := hstep m (Nat.lt_succ_self m)
      exact ⟨m + 1, Nat.le_refl _, by omega⟩

section
variable {r : State} (h : r.RunsFrom r) (h0 : r.stepsDone = 0)
include h h0

/-- Every number of boundary steps is the one behind some state of the run. -/
theorem State.RunsFrom.reaches_boundaries {v : Nat} (hv : v ≤ r.totalBursts * (2 * r.framesPerBurst + 3)) :
    ∃ n, r.RunsFrom ((State.turn · true)^[n] r) ∧ ((State.turn · true)^[n] r).boundaries = v := by
  have run : ∀ n < r.runSteps, r.RunsFrom ((State.turn · true)^[n] r) ∧ ((State.turn · true)^[n] r).stepsDone = n := by
    intro n hn
    have := h.iterate_turn n (by omega)
    rwa [h0, Nat.zero_add] at this
  have hN : r.runSteps = r.runTrace.length + r.totalBursts * (2 * r.framesPerBurst + 3) + 1 := rfl
  obtain ⟨hlast, hsteps⟩ := run (r.runSteps - 1) (by omega)
  have hend : v ≤ ((State.turn · true)^[r.runSteps - 1] r).boundaries := by
    have := (hlast.inv.progress_prefix hlast.busy).length_le
    rw [hlast.same.runTrace] at this
    rw [State.stepsDone] at hsteps
    omega
  have hgrow : ∀ n < r.runSteps - 1,
      ((State.turn · true)^[n + 1] r).boundaries ≤ ((State.turn · true)^[n] r).boundaries + 1 := by
    intro n hn
    obtain ⟨hrun, hsteps⟩ := run n (by omega)
    rw [Function.iterate_succ_apply']
    obtain ⟨_, ⟨hc, _⟩ | ⟨_, hle⟩⟩ | ⟨_, hlast⟩ := hrun.turn true
    · cases hc
    · exact hle
    · omega
  have hzero : r.boundaries ≤ v := by
    unfold State.stepsDone at h0
    omega
  obtain ⟨n, hn, e⟩ := exists_eq_of_le_succ (f := fun n => ((State.turn · true)^[n] r).boundaries) hgrow hzero hend
  exact ⟨n, (run n (by omega)).1, e⟩

/-- Every boundary with work left is reached. -/
theorem State.RunsFrom.reaches_stopsAt {b f : Nat} (hb : b < r.totalBursts) (hf : f < r.framesPerBurst ∨ f = 0) :
    ∃ n, r.RunsFrom ((State.turn · true)^[n] r) ∧ ((State.turn · true)^[n] r).StopsAt b f := by
  have hmul := Nat.mul_le_mul_right (2 * r.framesPerBurst + 3) hb
  rw [Nat.succ_mul] at hmul
  obtain hf | rfl := hf
  · obtain ⟨n, hrun, e⟩ := h.reaches_boundaries h0 (v := b * (2 * r.framesPerBurst + 3) + (2 * f + 1)) (by omega)
    rw [← hrun.same.framesPerBurst] at e hf
    exact ⟨n, hrun, hrun.inv.stopsAt_frameTop hrun.busy hf e⟩
  · obtain ⟨n, hrun, e⟩ := h.reaches_boundaries h0 (v := b * (2 * r.framesPerBurst + 3)) (by omega)
    rw [← hrun.same.framesPerBurst] at e
    rw [← hrun.same.totalBursts] at hb
    exact ⟨n, hrun, hrun.inv.stopsAt_burstTop hrun.busy hb e⟩

end

/-! ### Runs of turns, and the STOP write -/

/-- A run of the machine, one step at a time. -/
theorem core_run_succ (n : Nat) {s u : State} (h : step s = .next u) :
    Host.Core.run Sys2Proof.core (n + 1) s = Host.Core.run Sys2Proof.core n u :=
  run_next Sys2Proof.core n h

/-- Ready turns, one after another. -/
theorem run_turns (n m : Nat) (s : State) (es : List Event) :
    Host.Core.run Sys2Proof.core (n + m) (s.withSchedule (List.replicate n (.sequencerTurn true) ++ es)) =
      Host.Core.run Sys2Proof.core m (((State.turn · true)^[n] s).withSchedule es) := by
  induction n generalizing s with
  | zero => rw [Nat.zero_add]; rfl
  | succ n ih =>
    rw [Nat.add_right_comm]
    exact (core_run_succ (n + m) (step_turn s true _)).trans (ih (s.turn true))

/-- The STOP write of a host, during a run. -/
theorem step_stop {s : State} (hb : s.busy = true) (es : List Event) :
    step (s.withSchedule (.transaction (busWrite 0x00#8 2#32) :: es)) = .next ((s.withStop true).withSchedule es) := by
  show exec (decode (Transaction.make true (RegName.offset .ctrl) 2#32)) (s.withSchedule es) = _
  rw [decode_register]
  exact congrArg Host.Outcome.next (State.writeCtrl_stop (s := s.withSchedule es) (x := 2#32) hb rfl)

/-- A STOP write where the run stands at a boundary with work left, and a turn: the run is cancelled. -/
theorem State.StopsAt.run_stop {s : State} {b f : Nat} (h : s.StopsAt b f) :
    Host.Core.run Sys2Proof.core 2 (s.withSchedule [.transaction (busWrite 0x00#8 2#32), .sequencerTurn true]) =
      .next ((s.finish true).withSchedule []) := by
  have hstop : (s.withStop true).StopsAt b f := h
  refine (core_run_succ 1 (step_stop h.busy _)).trans ((core_run_succ 0 (step_turn _ true _)).trans ?_)
  rw [hstop.turn rfl]
  rfl

end Sys2Proof.Machine

open Sys2Proof Sys2Proof.Machine

/-- Settles O35: a turn of a run moves the stream and the position by the same beats (`State.Inv.turnOfRun`), no other event moves
either, and the number of boundary steps behind a run takes every value up to the end, so each boundary is passed. -/
theorem everyInterleavingEmitsAPrefixOfTheTrace : Obligations.EveryInterleavingEmitsAPrefixOfTheTrace := by
  refine ⟨fun s s' base h hb hs hstep => ⟨h.progress_prefix hb, h.step_goes_on hb hs hstep, fun hi hr => ?ends⟩,
    fun s b f h _ hp hr hsz hb hf => ?reached⟩
  case ends =>
    obtain ⟨ready, a, es, rfl⟩ := step_ends_run hb hstep hi hr
    exact h.turn_ends hb (h.turnOfRun hb ready) hi hs
  case reached =>
    obtain ⟨hrun, h0⟩ := h.start_runsFrom hp hr hsz
    obtain ⟨_, _, _, hplan⟩ := h.start hp hr hsz
    have hB : s.start.totalBursts = planBursts s.cfg := by rw [State.totalBursts, hplan, planRegs_totalBursts]
    have hF : s.start.framesPerBurst = s.cfg.framesPerBurst.toNat := by rw [State.framesPerBurst, s.start_cfg]
    obtain ⟨n, ht, hstop⟩ := hrun.reaches_stopsAt h0 (hB ▸ hb) (hF ▸ hf)
    refine ⟨n, _, (run_turns n 2 s.start _).trans hstop.run_stop, rfl, ht.inv.finish_status ht.busy true, ?_, ?_⟩
    · rw [← ht.same.before, ← hstop.progress, ← s.start_stream]
      exact ht.stream
    · rw [← hF, ← ht.same.framesPerBurst]
      exact hstop.framesSent ht.inv

end

section
/-! A run without a stop (43_serializer R110): sequencer turns and host transactions in any order, until the run has ended. -/

namespace Sys2Proof.Machine

/-! ### Transactions other than START and STOP -/

/-- A CTRL write with its START or its STOP bit set. -/
def Transaction.startsOrStops (w : Transaction) : Prop :=
  w.getLsbD 40 = true ∧ w.extractLsb' 32 8 = 0#8 ∧ w.extractLsb' 0 2 ≠ 0#2

/-- A CTRL write that is neither a START nor a STOP has both bits 0. -/
theorem ctrl_bits_of_not_startsOrStops {x : Word} (h : ¬ Transaction.startsOrStops (busWrite 0x00#8 x)) :
    ctrlStart x = false ∧ ctrlStop x = false := by
  have hbits : (busWrite 0x00#8 x).extractLsb' 0 2 = 0#2 := by
    by_contra hne
    exact h ⟨Transaction.make_we true 0x00#8 x, Transaction.make_addr true 0x00#8 x, hne⟩
  have bit : ∀ i < 2, x.getLsbD i = false := by
    intro i hi
    have e := congrArg (·.getLsbD i) hbits
    simpa [hi, busWrite, Transaction.make_getLsbD, show i < 32 by omega] using e
  exact ⟨bit 0 (by decide), bit 1 (by decide)⟩

/-- An aligned transaction that is neither completes and leaves the sequencer, the stream, the status and the counter as they are;
during a run it touches the configuration and the padding policy no more than these. -/
theorem applyTransaction_quiet {w : Transaction} (ha : w.extractLsb' 32 2 = 0#2) (hw : ¬ Transaction.startsOrStops w) (s : State) :
    ∃ c p v a, applyTransaction w s = .next ((((s.withCfg c).withPad p).withHcrc v).withAgent a) ∧
      (s.busy = true → c = s.cfg ∧ p = s.padToWord) := by
  obtain ⟨u, hu⟩ := exec_completes (decode_ne_misaligned (t := w) (by simp [Transaction.aligned_addr, ha])) s
  rw [applyTransaction, hu]
  obtain ⟨rs, rfl⟩ | ⟨hi, c, rfl⟩ | ⟨v, rfl⟩ | ⟨x, rfl, rfl⟩ := applyTransaction_effect hu
  · exact ⟨s.cfg, s.padToWord, s.hcrc, _, rfl, fun _ => ⟨rfl, rfl⟩⟩
  · exact ⟨c, s.padToWord, s.hcrc, s.agent, rfl, fun hb => by cases hb.symm.trans hi⟩
  · exact ⟨s.cfg, s.padToWord, v, s.agent, rfl, fun _ => ⟨rfl, rfl⟩⟩
  · obtain ⟨hstart, hstop⟩ := ctrl_bits_of_not_startsOrStops hw
    obtain ⟨_, e⟩ | ⟨hi, _, e⟩ | ⟨_, hs, _⟩ := s.writeCtrl_cases x
    · rw [e, hstop, Bool.or_false]
      exact ⟨s.cfg, s.padToWord, s.hcrc, s.agent, rfl, fun _ => ⟨rfl, rfl⟩⟩
    · rw [e]
      exact ⟨s.cfg, ctrlPad x, s.hcrc, s.agent, rfl, fun hb => by cases hb.symm.trans hi⟩
    · cases hstart.symm.trans hs

/-! ### One event -/

/-- An event of a schedule without START, STOP and reset: a turn, or an aligned transaction. -/
def Event.letsRun (e : Event) : Prop :=
  (∃ ready, e = .sequencerTurn ready) ∨ ∃ w, e = .transaction w ∧ w.extractLsb' 32 2 = 0#2 ∧ ¬ Transaction.startsOrStops w

theorem step_of_next_event {s : State} {e : Event} {es : List Event} (h : s.schedule = e :: es) :
    step s = applyEvent e (s.withSchedule es) := by
  simp [step, State.takeEvent, h]

/-- After the end of the run the results stay (43_serializer R107). -/
theorem State.Drained.nextEvent {r t : State} (h : r.Drained t) {e : Event} {es : List Event} (hs : t.schedule = e :: es)
    (he : e.letsRun) : ∃ u, step t = .next u ∧ u.schedule = es ∧ r.Drained u := by
  obtain ⟨ready, rfl⟩ | ⟨w, rfl, ha, hw⟩ := he
  · have hidle : t.turn ready = t := by simp [State.turn, State.candidate, h.idle]
    exact ⟨_, step_of_turn_next hs, rfl, hidle.symm ▸ ⟨h.idle, h.status, h.stream, h.framesSent⟩⟩
  · obtain ⟨c, p, v, a, e, _⟩ := applyTransaction_quiet ha hw (t.withSchedule es)
    exact ⟨_, (step_of_next_event hs).trans e, rfl, h.idle, h.status, h.stream, h.framesSent⟩

theorem State.RunsFrom.withEnvironment {r t : State} (h : r.RunsFrom t) (v : Word) (a : HostAgent) (es : List Event) :
    r.RunsFrom (((t.withHcrc v).withAgent a).withSchedule es) :=
  ⟨h.inv.withEnvironment v a es, h.busy, h.noStop, ⟨h.same.params, h.same.cfg, h.same.padToWord, h.same.plan⟩, h.stream⟩

theorem State.RunsFrom.withSchedule {r t : State} (h : r.RunsFrom t) (es : List Event) : r.RunsFrom (t.withSchedule es) :=
  h.withEnvironment t.hcrc t.agent es

/-- Before it the run goes on, one step at least for each turn with a ready sink, or ends. -/
theorem State.RunsFrom.nextEvent {r t : State} (h : r.RunsFrom t) {e : Event} {es : List Event} (hs : t.schedule = e :: es)
    (he : e.letsRun) : ∃ u, step t = .next u ∧ u.schedule = es ∧
      (r.RunsFrom u ∧ t.stepsDone + [e].count (.sequencerTurn true) ≤ u.stepsDone ∨ r.Drained u) := by
  obtain ⟨ready, rfl⟩ | ⟨w, rfl, ha, hw⟩ := he
  · refine ⟨_, step_of_turn_next hs, rfl, ?_⟩
    obtain ⟨hrun, hsteps⟩ | ⟨hend, _⟩ := h.turn ready
    · refine .inl ⟨hrun.withSchedule es, ?_⟩
      show _ ≤ (t.turn ready).stepsDone
      obtain ⟨rfl, e⟩ | ⟨e, _⟩ := hsteps
      · rw [e]
        exact Nat.le_refl _
      · rw [e]
        exact Nat.add_le_add_left List.count_le_length _
    · exact .inr ⟨hend.idle, hend.status, hend.stream, hend.framesSent⟩
  · obtain ⟨c, p, v, a, e, hkeep⟩ := applyTransaction_quiet ha hw (t.withSchedule es)
    obtain ⟨rfl, rfl⟩ := hkeep h.busy
    have hcount : [Event.transaction w].count (.sequencerTurn true) = 0 := by simp
    have hu : step t = .next (((t.withHcrc v).withAgent a).withSchedule es) := (step_of_next_event hs).trans e
    have hdone : (((t.withHcrc v).withAgent a).withSchedule es).stepsDone = t.stepsDone := rfl
    exact ⟨_, hu, rfl, .inl ⟨h.withEnvironment v a es, by rw [hcount, hdone, Nat.add_zero]⟩⟩

/-! ### A whole schedule -/

theorem State.Drained.run {r : State} (es : List Event) (hes : ∀ e ∈ es, e.letsRun) {t : State} (h : r.Drained t)
    (hs : t.schedule = es) : ∃ u, Host.Core.run Sys2Proof.core es.length t = .next u ∧ r.Drained u := by
  induction es generalizing t with
  | nil => exact ⟨t, rfl, h⟩
  | cons e es ih =>
    obtain ⟨he, hes⟩ := List.forall_mem_cons.mp hes
    obtain ⟨u, hu, hsu, hd⟩ := h.nextEvent hs he
    obtain ⟨v, hv, hdv⟩ := ih hes hd hsu
    exact ⟨v, (core_run_succ es.length hu).trans hv, hdv⟩

/-- With as many ready turns as steps are to come the run ends (43_serializer R110 (b)). -/
theorem State.RunsFrom.run {r : State} (es : List Event) (hes : ∀ e ∈ es, e.letsRun) {t : State} (h : r.RunsFrom t)
    (hs : t.schedule = es) (hN : r.runSteps ≤ t.stepsDone + es.count (.sequencerTurn true)) :
    ∃ u, Host.Core.run Sys2Proof.core es.length t = .next u ∧ r.Drained u := by
  induction es generalizing t with
  | nil =>
    have := h.inv.stepsDone_lt h.busy
    rw [h.same.runSteps] at this
    simp at hN
    omega
  | cons e es ih =>
    have hall := List.forall_mem_cons.mp hes
    obtain ⟨u, hu, hsu, ⟨hrun, hsteps⟩ | hd⟩ := h.nextEvent hs hall.1
    · rw [← List.singleton_append, List.count_append] at hN
      obtain ⟨v, hv, hdv⟩ := ih hall.2 hrun hsu (by omega)
      exact ⟨v, (core_run_succ es.length hu).trans hv, hdv⟩
    · obtain ⟨v, hv, hdv⟩ := hd.run es hall.2 hsu
      exact ⟨v, (core_run_succ es.length hu).trans hv, hdv⟩

end Sys2Proof.Machine

open Sys2Proof Sys2Proof.Machine

/-- Settles O34: every ready turn is one of the `N` steps of the run (`State.RunsFrom.turn`) and no other event of the schedule takes
one back, so the run has ended after `N` of them; where all turns are ready they are its only steps, so it has not ended before. -/
theorem runEmitsTheTraceAndEnds : Obligations.RunEmitsTheTraceAndEnds := by
  intro s h _ hp hr hsz r N
  obtain ⟨hrun, h0⟩ := h.start_runsFrom hp hr hsz
  obtain ⟨_, _, _, hplan⟩ := h.start hp hr hsz
  refine ⟨fun es hes hN => ?ends, fun n hn => ?before⟩
  case ends =>
    have hrun' : s.start.RunsFrom (s.start.under es) := hrun.withSchedule es
    obtain ⟨t, ht, hd⟩ := hrun'.run es hes rfl (hN.trans (Nat.le_add_left _ _))
    refine ⟨t, ht, ?_, hd.idle, hd.status, ?_⟩
    · rw [hd.stream, s.start_stream, State.runTrace, s.start_params, s.start_cfg, s.start_padToWord, hplan]
    · rw [hd.framesSent, State.totalBursts, hplan, planRegs_totalBursts, State.framesPerBurst, s.start_cfg]
  case before =>
    have hiter := (hrun.iterate_turn n (by rw [h0, Nat.zero_add]; exact hn)).1
    refine ⟨((State.turn · true)^[n] s.start).withSchedule [], ?_, (State.busy_eq_true _).mp hiter.busy⟩
    rw [← List.append_nil (List.replicate n _)]
    exact run_turns n 0 s.start []

end

section
/-! The register operations (44_register_ops): what CTRL and STATUS read, the configuration lock, the CTRL write by its cases, and
what leaves the results of a run as they are. -/

namespace Sys2Proof.Machine

/-! ### The words that CTRL and STATUS read -/

theorem statusWord_flags (s : State) :
    (statusWord s).getLsbD 0 = s.busy ∧ (statusWord s).getLsbD 1 = s.status.done ∧
      (statusWord s).getLsbD 2 = s.status.cancelled ∧ (statusWord s).getLsbD 3 = false := by
  simp only [statusWord, BitVec.getLsbD_append]
  simp

/-- Above the flags stands the error code, and 0 above that. -/
theorem statusWord_getLsbD_four_add (s : State) (i : Nat) :
    (statusWord s).getLsbD (4 + i) = s.status.err.code.getLsbD i := by
  simp only [statusWord, BitVec.getLsbD_append]
  simpa [show ¬ 4 + i < 1 by omega] using BitVec.lt_of_getLsbD

theorem statusWord_err (s : State) : (statusWord s).extractLsb' 4 4 = s.status.err.code := by
  apply BitVec.eq_of_getLsbD_eq
  intro i hi
  simp [statusWord_getLsbD_four_add, hi]

theorem statusWord_reserved (s : State) : (statusWord s).extractLsb' 8 24 = 0#24 := by
  apply BitVec.eq_of_getLsbD_eq
  intro i hi
  simp [show 8 + i = 4 + (4 + i) by omega, statusWord_getLsbD_four_add]

/-- While idle the stored bits are all that STATUS shows. -/
theorem statusWord_of_idle {s : State} (hp : s.seq.phase = .idle) {x : Status} (hx : s.status = x) :
    statusWord s = 0#24 ++ x.err.code ++ 0#1 ++ BitVec.ofBool x.cancelled ++ BitVec.ofBool x.done ++ 0#1 := by
  rw [statusWord, hx, s.busy_eq_false.mpr hp]
  rfl

/-! ### The configuration lock -/

theorem writeLocked_of_idle {s : State} (hp : s.seq.phase = .idle) (store : TrafficProfile → TrafficProfile) :
    writeLocked store s = .next (s.withCfg (store s.cfg)) := by
  rw [writeLocked_eq, s.busy_eq_false.mpr hp]
  rfl

theorem writeLocked_of_busy {s : State} (hp : s.seq.phase ≠ .idle) (store : TrafficProfile → TrafficProfile) :
    writeLocked store s = .next s := by
  rw [writeLocked_eq, s.busy_eq_true.mpr hp]
  rfl

/-! ### The CTRL write while idle -/

theorem State.writeCtrl_of_idle {s : State} (hp : s.seq.phase = .idle) {x : Word} (hx : ctrlStart x = false) :
    s.writeCtrl x = s.withPad (ctrlPad x) := by
  obtain ⟨hb, _⟩ | ⟨_, _, e⟩ | ⟨_, hs, _⟩ := s.writeCtrl_cases x
  · exact absurd hp (s.busy_eq_true.mp hb)
  · exact e
  · cases hx.symm.trans hs

theorem State.writeCtrl_of_start {s : State} (hp : s.seq.phase = .idle) {x : Word} (hx : ctrlStart x = true) :
    s.writeCtrl x = (s.withPad (ctrlPad x)).start :=
  (Host.Outcome.next.inj (exec_wrCtrl_of_start hp hx)).trans (s.start_withPad _).symm

/-- Right after a START nothing is pending, so CTRL reads the padding policy alone. -/
theorem ctrlWord_start (s : State) : ctrlWord s.start = 0#29 ++ BitVec.ofBool s.padToWord ++ 0#1 ++ 0#1 := by
  rw [ctrlWord, s.start_padToWord, s.start_stopReq]
  rfl

/-! ### What keeps the results -/

/-- The registers that START and the sequencer write and the host can only read are the same in the two states. -/
structure State.SameResults (s t : State) : Prop where
  plan : t.plan = s.plan
  framesSent : t.framesSent = s.framesSent
  lastFcs : t.lastFcs = s.lastFcs
  status : t.status = s.status

theorem State.writeCtrl_keeps_or_starts (s : State) (x : Word) :
    s.SameResults (s.writeCtrl x) ∨ s.seq.phase = .idle ∧ ctrlStart x = true := by
  obtain ⟨_, e⟩ | ⟨_, _, e⟩ | ⟨hi, hx, _⟩ := s.writeCtrl_cases x
  · exact .inl (e ▸ ⟨rfl, rfl, rfl, rfl⟩)
  · exact .inl (e ▸ ⟨rfl, rfl, rfl, rfl⟩)
  · exact .inr ⟨s.busy_eq_false.mp hi, hx⟩

/-- Of the bus operations only a CTRL write that acts as START writes the results. -/
theorem exec_keeps_or_starts {i : Instr} {s s' : State} (h : exec i s = .next s') :
    s.SameResults s' ∨ s.seq.phase = .idle ∧ ∃ x, i = .wrCtrl x ∧ ctrlStart x = true := by
  obtain ⟨_, rfl⟩ | rfl | ⟨_, _, rfl⟩ | ⟨_, _, rfl⟩ | ⟨x, hi, rfl⟩ := exec_cases h
  case inr.inr.inr.inr => exact (s.writeCtrl_keeps_or_starts x).imp_right fun ⟨hp, hx⟩ => ⟨hp, x, hi, hx⟩
  all_goals exact .inl ⟨rfl, rfl, rfl, rfl⟩

/-- While a run goes on no step changes what its trace depends on (10_state R20 (b), R28). -/
theorem step_sameRun {s s' : State} (hb : s.busy = true) (h : step s = .next s') (hb' : s'.busy = true) : s.SameRun s' := by
  obtain ⟨u, a, es, hu, rfl⟩ := step_effect h
  cases hu with
  | none => exact ⟨rfl, rfl, rfl, rfl⟩
  | cfg _ hi => cases hb.symm.trans hi
  | hcrc _ => exact ⟨rfl, rfl, rfl, rfl⟩
  | ctrl x _ => rw [State.writeCtrl_of_busy hb]; exact ⟨rfl, rfl, rfl, rfl⟩
  | turn ready _ _ =>
    have e := s.turn_sameRun ready
    exact ⟨e.params, e.cfg, e.padToWord, e.plan⟩
  | reset _ _ => cases hb'

end Sys2Proof.Machine

open Sys2Proof Sys2Proof.Machine

/-- Settles O7: a pending stop is the invariant's `stop_busy`, and START takes the padding policy of its own write with it. -/
theorem controlRegisterReads : Obligations.ControlRegisterReads := by
  refine ⟨decode_register false .ctrl, fun _ => rfl, fun s h hq => s.busy_eq_true.mp (h.stop_busy hq), fun s hp _ => ?_⟩
  have word : ctrlWord (s.writeCtrl 0x5#32) = 0x4#32 := by
    rw [State.writeCtrl_of_start hp (by decide), ctrlWord_start, State.withPad_padToWord]
    decide
  exact congrArg (respond · _) word

/-- Settles O8, bit by bit; that BUSY and DONE exclude each other is the invariant's `busy_not_done`. -/
theorem statusRegisterReads : Obligations.StatusRegisterReads := by
  have ended : ∀ {s : State}, s.seq.phase = .idle → ∀ {x : Status}, s.status = x → Answers .rdStatus s
      (0#24 ++ x.err.code ++ 0#1 ++ BitVec.ofBool x.cancelled ++ BitVec.ofBool x.done ++ 0#1) := fun hp _ hx =>
    congrArg (respond · _) (statusWord_of_idle hp hx)
  refine ⟨decode_register false .status, fun s => ⟨statusWord s, rfl, statusWord_reserved s, statusWord_err s, ?bits⟩,
    ended rfl rfl, fun s hp => ⟨ended hp, ended hp, ended hp, ended hp, ended hp⟩⟩
  obtain ⟨busy, done, cancelled, zero⟩ := statusWord_flags s
  rw [busy, done]
  exact ⟨zero, cancelled, rfl, s.busy_eq_true, fun h ⟨hb, hd⟩ => by cases (h.busy_not_done hb).symm.trans hd⟩

/-- Settles O9: each read decodes by its offset and answers with the register, which is 0 after reset. -/
theorem configurationReadsReturnTheStoredValue : Obligations.ConfigurationReadsReturnTheStoredValue := by
  refine ⟨fun x => ?decoded, fun s => ⟨rfl, rfl, rfl, rfl, rfl, rfl, rfl, rfl, rfl, rfl⟩,
    rfl, rfl, rfl, rfl, rfl, rfl, rfl, rfl, rfl, rfl⟩
  have row := fun r => decode_register false r x
  exact ⟨row .lineRateGbps, row .captureMs, row .minIfgBytes, row .destMacHi, row .destMacLo, row .srcMacHi, row .srcMacLo,
    row .maxFrameBytes, row .framesPerBurst, row .burstPeriodUs⟩

/-- Settles O10: each read answers with the register or its half, and the plan is part of what a run keeps (`step_sameRun`). -/
theorem resultReadsReturnTheHalfOrTheValue : Obligations.ResultReadsReturnTheHalfOrTheValue := by
  refine ⟨fun x => ?decoded, fun s => ⟨rfl, rfl, rfl, rfl, rfl, rfl, rfl, rfl⟩, fun s s' hb h hb' => (step_sameRun hb h hb').plan,
    rfl, rfl, rfl, rfl, rfl, rfl, rfl, rfl⟩
  have row := fun r => decode_register false r x
  exact ⟨row .totalBurstsLo, row .totalBurstsHi, row .ifgWords, row .eobWordsLo, row .eobWordsHi, row .framesSentLo,
    row .framesSentHi, row .lastFcs⟩

/-- Settles O12: the ten writes are locked writes (10_state R20 (b)), each with the update of its own register. -/
theorem configurationWritesStoreOnlyWhileIdle : Obligations.ConfigurationWritesStoreOnlyWhileIdle := by
  refine ⟨fun x => ?decoded, fun s x hp => ?idle, fun s x hp => ?busy⟩
  case decoded =>
    have row := fun r => decode_register true r x
    exact ⟨row .lineRateGbps, row .captureMs, row .minIfgBytes, row .destMacHi, row .destMacLo, row .srcMacHi, row .srcMacLo,
      row .maxFrameBytes, row .framesPerBurst, row .burstPeriodUs⟩
  case idle =>
    have stored := writeLocked_of_idle hp
    simp only [exec]
    exact ⟨stored _, stored _, stored _, stored _, stored _, stored _, stored _, stored _, stored _, stored _⟩
  case busy =>
    have ignored := writeLocked_of_busy hp
    simp only [exec]
    exact ⟨ignored _, ignored _, ignored _, ignored _, ignored _, ignored _, ignored _, ignored _, ignored _, ignored _⟩

/-- Settles O13: the eleven writes are ignored ones, the frame over all bus operations is `exec_keeps_or_starts`, and a turn keeps
the plan. -/
theorem readOnlyAndReservedWritesAreIgnored : Obligations.ReadOnlyAndReservedWritesAreIgnored := by
  refine ⟨fun x => ?decoded, fun s x => ⟨rfl, rfl, rfl, rfl, rfl, rfl, rfl, rfl, rfl, rfl, fun _ => rfl⟩,
    fun i s s' h hne => ?frame, fun s ready => (s.turn_sameRun ready).plan⟩
  case decoded =>
    have row := fun r => decode_register true r x
    refine ⟨row .status, row .totalBurstsLo, row .totalBurstsHi, row .ifgWords, row .eobWordsLo, row .eobWordsHi,
      row .framesSentLo, row .framesSentHi, row .lastFcs, row .crcResult, fun a ha hge => decode_reserved true a x ?_⟩
    simp [Offset.reserved, Offset.aligned, ha, hge]
  case frame =>
    refine (exec_keeps_or_starts h).resolve_left fun same => ?_
    obtain hne | hne | hne | hne := hne
    · exact hne same.plan
    · exact hne same.framesSent
    · exact hne same.lastFcs
    · exact hne same.status

/-- Settles O14, by the three cases of the CTRL write; START clears the pending stop and keeps the padding policy it is given. -/
theorem controlWritesActInOrder : Obligations.ControlWritesActInOrder :=
  ⟨decode_register true .ctrl,
    fun s x hp => congrArg Host.Outcome.next (State.writeCtrl_of_busy (s.busy_eq_true.mpr hp) x),
    fun _ _ hp hx => congrArg Host.Outcome.next (State.writeCtrl_of_idle hp hx),
    fun _ _ hp hx => ⟨congrArg Host.Outcome.next (State.writeCtrl_of_start hp hx), State.start_stopReq _, State.start_padToWord _⟩⟩

end

section
/-! Errors and the ends of a run (60_exceptions R157, R159): a START that fails enters the error state and would enter the same one
again, and no other event raises an error or ends a run but a boundary turn or a reset. -/

namespace Sys2Proof.Machine

/-! ### A START that fails -/

/-- The code of the first failing check of START, where one fails (42_burst_plan R95). -/
def startError (c : TrafficProfile) : ErrCode :=
  if paramError c then .param else if rangeError c then .range else .size

/-- With a configuration that fails a check, START only clears the last outcome, stores a plan and raises the code; plan and code
depend on the configuration alone. -/
theorem State.start_of_failed {c : TrafficProfile} (h : paramError c = true ∨ rangeError c = true ∨ sizeError c = true) :
    ∃ r, ∀ s : State, s.cfg = c → s.start = (s.clearOutcome.withPlan r).raise (startError c) := by
  unfold startError
  cases hp : paramError c with
  | true => exact ⟨.zero, fun s hc => start_of_paramError (hc ▸ hp)⟩
  | false =>
    cases hr : rangeError c with
    | true => exact ⟨.zero, fun s hc => start_of_rangeError (hc ▸ hp) (hc ▸ hr)⟩
    | false =>
      have hs : sizeError c = true := by simpa [hp, hr] using h
      exact ⟨planRegs c, fun s hc => hc ▸ start_of_sizeError (hc ▸ hp) (hc ▸ hr) (hc ▸ hs)⟩

/-- Leaving an error state and entering it again changes nothing. -/
theorem State.raise_clearOutcome_raise (s : State) (r : PlanRegs) (e : ErrCode) :
    (((s.clearOutcome.withPlan r).raise e).clearOutcome.withPlan r).raise e = (s.clearOutcome.withPlan r).raise e := by
  cases s
  rfl

/-! ### STATUS over a step of a run -/

/-- Everything a step of a run can do to STATUS: a turn decides it, a reset clears it, and any other event keeps it. -/
theorem step_status_of_busy {s s' : State} (hb : s.busy = true) (h : step s = .next s') :
    (s'.status = s.status ∧ s'.busy = true) ∨
    (∃ ready es, s.schedule = .sequencerTurn ready :: es ∧ s'.status = (s.turn ready).status ∧
      s'.busy = (s.turn ready).busy) ∨
    ((∃ es, s.schedule = .reset :: es) ∧ s'.status = Status.clear) := by
  obtain ⟨u, a, _, hu, rfl⟩ := step_effect h
  cases hu with
  | none => exact .inl ⟨rfl, hb⟩
  | cfg _ hi => cases hb.symm.trans hi
  | hcrc _ => exact .inl ⟨rfl, hb⟩
  | ctrl x _ => rw [State.writeCtrl_of_busy hb]; exact .inl ⟨rfl, hb⟩
  | turn ready es hs => exact .inr (.inl ⟨ready, es, hs, rfl, rfl⟩)
  | reset es hs => exact .inr (.inr ⟨⟨es, hs⟩, rfl⟩)

section
variable {s t : State} {ready : Bool} (ht : s.TurnOfRun ready t) (h : s.Inv) (hb : s.busy = true)
include ht h hb

/-- No turn of a run raises an error, whether it waits, goes on or ends the run. -/
theorem State.TurnOfRun.err : t.status.err = .none := by
  cases ht with
  | waits => exact h.err_of_busy hb
  | advances _ _ ha => exact ha.inv.err_of_busy ha.busy
  | ends _ _ _ => exact h.err_of_busy hb
  | cancels _ _ _ _ _ => exact h.err_of_busy hb

/-- A turn that ends a run finds all bursts drained, or a stop pending at a boundary. -/
theorem State.TurnOfRun.status_of_idle (hi : t.busy = false) :
    (s.seq.phase = .burstTop ∧ s.seq.burst = s.plan.totalBursts ∧ t.status = ⟨true, false, .none⟩) ∨
    ((s.seq.phase = .burstTop ∨ s.seq.phase = .frameTop) ∧ s.seq.stopReq = true ∧ t.status = ⟨true, true, .none⟩) := by
  cases ht with
  | waits => cases hb.symm.trans hi
  | advances _ _ ha => cases ha.busy.symm.trans hi
  | ends _ hp hl => exact .inl ⟨hp, hl, h.finish_status hb false⟩
  | cancels _ _ _ hstop hq =>
    obtain ⟨_, hp⟩ := hstop
    exact .inr ⟨hp.imp And.left And.left, hq, h.finish_status hb true⟩

end

end Sys2Proof.Machine

open Sys2Proof Sys2Proof.Machine

/-- Settles O16: a failed START is one raise, with a plan and a code that depend on the configuration alone, so a second one enters
the state that the first has left. -/
theorem failedStartLeavesTheErrorStateAndFailsAgain : Obligations.FailedStartLeavesTheErrorStateAndFailsAgain := by
  intro s hidle hfail
  obtain ⟨r, raises⟩ := State.start_of_failed hfail
  have first := raises s rfl
  have again : s.start.start = s.start := by
    rw [raises s.start s.start_cfg, first, State.raise_clearOutcome_raise]
  exact ⟨first ▸ rfl, first ▸ hidle, s.start_stream, s.start_framesSent, s.start_lastFcs, s.start_cfg, s.start_hcrc,
    rfl, rfl, rfl, again⟩

/-- Settles O38, from what a step of a run does to STATUS (`step_status_of_busy`) and, where it is a turn, from how that turn can
leave the run. -/
theorem onlyStartRaisesAndARunEndsInThreeWays : Obligations.OnlyStartRaisesAndARunEndsInThreeWays := by
  intro s s' h hb hstep
  obtain ⟨hst, hb'⟩ | ⟨ready, es, hs, hst, hbusy⟩ | ⟨hs, hst⟩ := step_status_of_busy hb hstep <;> rw [hst]
  case inl => exact ⟨h.err_of_busy hb, fun hi => nomatch hb'.symm.trans hi⟩
  case inr.inl =>
    have ht := h.turnOfRun hb ready
    refine ⟨ht.err h hb, fun hi => .inr ?_⟩
    obtain ⟨hp, hl, hend⟩ | ⟨hp, hq, hend⟩ := ht.status_of_idle h hb (hbusy.symm.trans hi)
    · exact .inl ⟨ready, es, hs, hp, hl, hend⟩
    · exact .inr ⟨ready, es, hs, hp, hq, hend⟩
  case inr.inr => exact ⟨rfl, fun _ => .inl hs⟩

end

section
/-! Reset (70_reset_and_hazards R171): the step that takes it, and a START in the state it leaves. -/

namespace Sys2Proof.Machine

theorem step_of_reset_next {s : State} {es : List Event} (h : s.schedule = .reset :: es) :
    step s = .next (s.withSchedule es).resetBlock :=
  step_of_next_event h

/-- After reset the rate is 0, so START fails its first check; the results it would clear are clear already. -/
theorem State.start_resetBlock (s : State) : s.resetBlock.start = s.resetBlock.raise .param := by
  have unconfigured : paramError s.resetBlock.cfg = true := (paramError_iff _).mpr (.inl rfl)
  exact State.start_of_paramError unconfigured

theorem exec_wrCtrl_start_resetBlock (s : State) :
    exec (.wrCtrl 1#32) s.resetBlock = .next (s.resetBlock.raise .param) := by
  have idle : s.resetBlock.seq.phase = .idle := rfl
  rw [exec_wrCtrl_of_start idle rfl, s.start_resetBlock]
  rfl

end Sys2Proof.Machine

open Sys2Proof Sys2Proof.Machine

/-- Settles O42: the step is the reset alone, which sets each field to its value of 10_state R38, and START then fails PARAM. -/
theorem resetEventClearsTheBlock : Obligations.ResetEventClearsTheBlock := fun s es h =>
  ⟨(s.withSchedule es).resetBlock, step_of_reset_next h, rfl, rfl, rfl, rfl, rfl, rfl, rfl, rfl, rfl, rfl, rfl,
    exec_wrCtrl_start_resetBlock _⟩

end

section
/-! Encoding and decoding as inverses (30_encoding R57, R58): the word of each kind of operation, and what a word decodes to by
the kind of its offset. -/

namespace Sys2Proof

@[simp] theorem encode_readOf (r : RegName) : encode (.readOf r) = busRead r.offset := by cases r <;> rfl

@[simp] theorem encode_writeOf (x : Word) (r : RegName) : encode (.writeOf x r) = busWrite r.offset x := by cases r <;> rfl

@[simp] theorem Instr.readOf_wellFormed (r : RegName) : (Instr.readOf r).wellFormed = true := by cases r <;> rfl

@[simp] theorem Instr.writeOf_wellFormed (x : Word) (r : RegName) : (Instr.writeOf x r).wellFormed = true := by cases r <;> rfl

/-- Everything a word can decode to, by the kind of its offset. -/
theorem decode_cases (t : Transaction) :
    (∃ r, RegName.offset r = t.addr ∧ decode t = if t.we then .writeOf t.wdata r else .readOf r) ∨
    (Offset.reserved t.addr = true ∧ decode t = if t.we then .wrRsvd t.addr t.wdata else .rdRsvd t.addr) ∨
    (Offset.aligned t.addr = false ∧ decode t = .misaligned t.we t.addr t.wdata) := by
  unfold decode
  cases ha : Offset.aligned t.addr with
  | false => exact .inr (.inr ⟨rfl, rfl⟩)
  | true =>
    cases hr : RegName.ofOffset t.addr with
    | some r => exact .inl ⟨r, RegName.ofOffset_some _ _ hr, rfl⟩
    | none => exact .inr (.inl ⟨RegName.ofOffset_none _ ha hr, rfl⟩)

theorem decode_wellFormed (t : Transaction) : (decode t).wellFormed = true := by
  obtain ⟨r, _, e⟩ | ⟨hr, e⟩ | ⟨ha, e⟩ := decode_cases t <;> rw [e]
  · cases t.we <;> simp
  · cases t.we <;> exact hr
  · simp [Instr.wellFormed, ha]

theorem Offset.aligned_of_reserved {a : Offset} (h : Offset.reserved a = true) : Offset.aligned a = true :=
  (Bool.and_eq_true_iff.mp h).1

/-- A word with `WE = 1` is the write of its address and data. -/
theorem Transaction.eq_busWrite {t : Transaction} (h : t.we = true) : busWrite t.addr t.wdata = t := by
  rw [busWrite, ← h, t.make_fields]

/-- Encoding forgets the `WDATA` of an aligned read, and nothing else. -/
theorem encode_decode (t : Transaction) :
    encode (decode t) = if Offset.aligned t.addr = true ∧ t.we = false then busRead t.addr else t := by
  obtain ⟨r, hr, e⟩ | ⟨hr, e⟩ | ⟨ha, e⟩ := decode_cases t <;> rw [e]
  · have ha : Offset.aligned t.addr = true := hr ▸ r.offset_aligned
    cases hw : t.we
    · simp [ha, hr]
    · simp [hr, Transaction.eq_busWrite hw]
  · have ha := Offset.aligned_of_reserved hr
    cases hw : t.we
    · simp [ha, encode]
    · simp [encode, Transaction.eq_busWrite hw]
  · simp [ha, encode, t.make_fields]

end Sys2Proof

open Sys2Proof Sys2Proof.Machine

open Sys2Proof.Laws.RoundTrip in
/-- Settles O1, by the lemma of each operation. -/
theorem decodingAnEncodedOperationGivesItBack : Obligations.DecodingAnEncodedOperationGivesItBack := by
  intro i
  cases i
  exacts [rdCtrl, wrCtrl _, rdStatus, wrStatus _, rdLineRateGbps, wrLineRateGbps _, rdCaptureMs, wrCaptureMs _, rdMinIfgBytes,
    wrMinIfgBytes _, rdDestMacHi, wrDestMacHi _, rdDestMacLo, wrDestMacLo _, rdSrcMacHi, wrSrcMacHi _, rdSrcMacLo, wrSrcMacLo _,
    rdMaxFrameBytes, wrMaxFrameBytes _, rdFramesPerBurst, wrFramesPerBurst _, rdBurstPeriodUs, wrBurstPeriodUs _,
    rdTotalBurstsLo, wrTotalBurstsLo _, rdTotalBurstsHi, wrTotalBurstsHi _, rdIfgWords, wrIfgWords _, rdEobWordsLo,
    wrEobWordsLo _, rdEobWordsHi, wrEobWordsHi _, rdFramesSentLo, wrFramesSentLo _, rdFramesSentHi, wrFramesSentHi _, rdLastFcs,
    wrLastFcs _, rdCrcInit, wrCrcInit _, rdCrcData, wrCrcData _, rdCrcResult, wrCrcResult _, rdRsvd _, wrRsvd _ _,
    misaligned _ _ _]

/-- Settles O2: only an aligned read forgets a field of its word (`encode_decode`). -/
theorem encodingADecodedWordGivesTheWordBack : Obligations.EncodingADecodedWordGivesTheWordBack := by
  intro t
  refine ⟨decode_wellFormed t, (encode_decode t).trans ?_⟩
  simp only [Transaction.aligned_addr, beq_iff_eq]
  rfl

/-- Settles O4, by decoding each word. -/
theorem wordsOfTheSpecsProgramsDecode : Obligations.WordsOfTheSpecsProgramsDecode := by
  unfold Obligations.WordsOfTheSpecsProgramsDecode
  decide

end

section
/-! The invariant of the machine over every event (10_state R35): idle states, the CTRL write with START in it, and the step. -/

namespace Sys2Proof.Machine

/-! ### Idle states -/

/-- While idle the invariant is what STATUS, the pending stop and the stream say; the rest is about a run. -/
theorem State.Inv.of_idle {s : State} (hp : s.seq.phase = .idle) (hq : s.seq.stopReq = false)
    (herr : s.status.err ≠ .none → s.status.done = true ∧ s.status.cancelled = false)
    (hcan : s.status.cancelled = true → s.status.done = true) (hbeats : ∀ b ∈ s.stream, b.wellFormed) : s.Inv := by
  have hi : s.busy = false := s.busy_eq_false.mpr hp
  have idle : ∀ {P : Prop}, s.busy = true → P := fun hb => by cases hi.symm.trans hb
  have noPhase : ∀ {x : Phase} {P : Prop}, x ≠ .idle → s.seq.phase = x → P := fun hx h => absurd (h.symm.trans hp) hx
  exact ⟨idle, fun he => ⟨(herr he).1, hi, (herr he).2⟩, hcan, fun h => absurd h (by simp [hq]), idle, idle, idle, idle,
    ⟨noPhase nofun, noPhase nofun⟩, idle, noPhase nofun, idle, hbeats⟩

section
variable {s : State} (h : s.Inv) (hi : s.busy = false)
include h hi

theorem State.Inv.stopReq_of_idle : s.seq.stopReq = false := by
  cases hq : s.seq.stopReq with
  | false => rfl
  | true => cases hi.symm.trans (h.stop_busy hq)

/-- While idle the configuration and the padding policy may be anything. -/
theorem State.Inv.configure (c : TrafficProfile) (p : Bool) : ((s.withCfg c).withPad p).Inv :=
  .of_idle (s.busy_eq_false.mp hi) (h.stopReq_of_idle hi)
    (fun he => by obtain ⟨hdone, _, hcan⟩ := h.error_ended he; exact ⟨hdone, hcan⟩) h.cancelled_done h.beats_formed

/-- A START that fails enters an error state of the invariant. -/
theorem State.Inv.failedStart (r : PlanRegs) (e : ErrCode) : ((s.clearOutcome.withPlan r).raise e).Inv :=
  .of_idle (s.busy_eq_false.mp hi) rfl (fun _ => ⟨rfl, rfl⟩) (fun _ => rfl) h.beats_formed

/-- START keeps the invariant, accepted or not. -/
theorem State.Inv.start_of_idle : s.start.Inv := by
  obtain ⟨_, e⟩ | ⟨_, _, e⟩ | ⟨_, _, _, e⟩ | ⟨hp, hr, hs, _⟩ := s.start_cases
  · exact e ▸ h.failedStart hi _ _
  · exact e ▸ h.failedStart hi _ _
  · exact e ▸ h.failedStart hi _ _
  · exact (h.start hp hr hs).1

end

/-! ### Every event -/

/-- During a run a stop may become pending. -/
theorem State.Inv.withStop {s : State} (h : s.Inv) (hb : s.busy = true) (b : Bool) : (s.withStop b).Inv :=
  h.withSeq hb _ (s.busy_eq_true.mp hb) (h.burst_bound hb) (h.frame_bound hb) (h.byte_bound hb) h.fill_bound rfl h.fcs_folds

theorem State.Inv.writeCtrl {s : State} (h : s.Inv) (x : Word) : (s.writeCtrl x).Inv := by
  obtain ⟨hb, e⟩ | ⟨hi, _, e⟩ | ⟨hi, _, e⟩ := s.writeCtrl_cases x <;> rw [e]
  · exact h.withStop hb _
  · exact h.configure hi s.cfg (ctrlPad x)
  · exact (h.configure hi s.cfg (ctrlPad x)).start_of_idle hi

theorem State.inv_reset : State.reset.Inv := .of_idle rfl rfl nofun nofun nofun

/-- A reset keeps the beats emitted before it (70_reset_and_hazards R172). -/
theorem State.Inv.resetBlock {s : State} (h : s.Inv) : s.resetBlock.Inv := .of_idle rfl rfl nofun nofun h.beats_formed

/-- Each of the six effects of a step keeps the invariant. -/
theorem Effect.inv {s u : State} (hu : Effect s u) (h : s.Inv) : u.Inv := by
  cases hu with
  | none => exact h
  | cfg c hi => exact h.configure hi c s.padToWord
  | hcrc v => exact h.withEnvironment v s.agent s.schedule
  | ctrl x _ => exact h.writeCtrl x
  | turn ready _ _ => exact h.turn ready
  | reset _ _ => exact h.resetBlock

end Sys2Proof.Machine

open Sys2Proof Sys2Proof.Machine

/-- Settles O33: the effect of a step keeps the invariant, which says nothing of the host and the events to come. -/
theorem everyStepKeepsTheInvariant : Obligations.EveryStepKeepsTheInvariant := by
  intro s s' h hstep
  obtain ⟨u, a, es, hu, rfl⟩ := step_effect hstep
  exact (hu.inv h).withEnvironment u.hcrc a es

/-- Settles O32: after reset the block is idle, with no error, no pending stop and no beat. -/
theorem invariantHoldsAtReset : Obligations.InvariantHoldsAtReset := State.inv_reset

end

section
/-! The sequencer's turn beside its environment (43_serializer R101): when it holds, what it does to an idle block, and that
neither the host, the events to come nor the beats already emitted decide what it does. -/

namespace Sys2Proof.Machine

theorem State.turn_of_idle {s : State} (hp : s.seq.phase = .idle) (ready : Bool) : s.turn ready = s := by
  simp [State.turn, State.candidate, hp]

/-- A turn that emits nothing does not look at the sink. -/
theorem State.turn_of_boundary {s : State} (h : s.wantsSink = false) (ready : Bool) : s.turn ready = s.candidate := by
  simp [State.turn, h]

/-- With a sink that is never ready an emitting step is held for any number of turns. -/
theorem run_of_holds {s : State} (h : s.wantsSink = true) (n : Nat) :
    Host.Core.run Sys2Proof.core n (s.withSchedule (List.replicate n (.sequencerTurn false))) = .next (s.withSchedule []) := by
  induction n with
  | zero => rfl
  | succ n ih =>
    refine (core_run_succ n (step_turn s false _)).trans ?_
    rw [State.turn_of_holds h]
    exact ih

/-! ### The beats already emitted -/

@[simp] theorem State.wantsSink_withStream (s : State) (bs : List Beat) : (s.withStream bs).wantsSink = s.wantsSink := rfl

theorem State.stepFrame_withStream (s : State) (bs : List Beat) :
    s.stepFrame.stream = s.stream ++ [s.nextBeat] ∧
      (s.withStream bs).stepFrame = s.stepFrame.withStream (bs ++ [s.nextBeat]) := by
  obtain ⟨hn, e⟩ | ⟨hn, e⟩ := s.stepFrame_cases <;> obtain ⟨hn', e'⟩ | ⟨hn', e'⟩ := (s.withStream bs).stepFrame_cases
  · rw [e, e']; exact ⟨rfl, rfl⟩
  · exact absurd hn' hn
  · exact absurd hn hn'
  · rw [e, e']; exact ⟨rfl, rfl⟩

/-- A step appends the same beats to any stream, and does the same to everything else. -/
theorem State.candidate_withStream (s : State) (bs : List Beat) :
    ∃ new, s.candidate.stream = s.stream ++ new ∧ (s.withStream bs).candidate = s.candidate.withStream (bs ++ new) := by
  have silent : ∀ {u u' : State}, u.stream = s.stream → u' = u.withStream bs →
      ∃ new, u.stream = s.stream ++ new ∧ u' = u.withStream (bs ++ new) := fun hu hu' => ⟨[], by simp [hu], by simp [hu']⟩
  unfold State.candidate
  rw [State.withStream_seq]
  cases hp : s.seq.phase with
  | idle => exact silent rfl rfl
  | burstTop =>
    refine silent ?_ ?_
    · obtain ⟨_, e⟩ | ⟨_, _, e⟩ | ⟨_, _, e⟩ := s.stepBurstTop_cases <;> rw [e] <;> rfl
    · simp only [State.stepBurstTop, apply_ite (State.withStream · bs)]; rfl
  | frameTop =>
    refine silent ?_ ?_
    · obtain ⟨_, e⟩ | ⟨_, _, e⟩ | ⟨_, _, e⟩ := s.stepFrameTop_cases <;> rw [e] <;> rfl
    · simp only [State.stepFrameTop, apply_ite (State.withStream · bs)]; rfl
  | frame => exact ⟨_, s.stepFrame_withStream bs⟩
  | ifg =>
    by_cases hf : s.seq.fill = 0#64 <;> simp only [State.stepIfg, State.withStream_seq, hf, if_true, if_false]
    · exact silent rfl rfl
    · exact ⟨[fillerBeat], rfl, rfl⟩
  | eob =>
    by_cases hf : s.seq.fill = 0#64 <;> simp only [State.stepEob, State.withStream_seq, hf, if_true, if_false]
    · exact silent rfl rfl
    · exact ⟨[fillerBeat], rfl, rfl⟩

theorem State.turn_withStream (s : State) (ready : Bool) (bs : List Beat) :
    ∃ new, (s.turn ready).stream = s.stream ++ new ∧ (s.withStream bs).turn ready = (s.turn ready).withStream (bs ++ new) := by
  have eq : ∀ u : State, u.wantsSink = s.wantsSink → u.turn ready = if s.wantsSink && !ready then u else u.candidate :=
    fun u hu => by rw [State.turn, hu]
  rw [eq s rfl, eq _ (s.wantsSink_withStream bs)]
  split
  · exact ⟨[], (List.append_nil _).symm, by rw [List.append_nil]⟩
  · exact s.candidate_withStream bs

end Sys2Proof.Machine

open Sys2Proof Sys2Proof.Machine

/-- Settles O28: a step that wants the sink holds, and a turn that does not want it is its candidate step with the sink ready or
not. -/
theorem emittingStepsHoldUntilTheSinkIsReady : Obligations.EmittingStepsHoldUntilTheSinkIsReady := by
  refine ⟨fun s hw => State.turn_of_holds (s.wantsSink_iff.mpr hw), fun s hw => ?boundary,
    fun s ready hp => State.turn_of_idle hp ready, fun s n hw => run_of_holds (s.wantsSink_iff.mpr hw) n⟩
  have hb := State.turn_of_boundary (by rwa [← s.wantsSink_iff, Bool.not_eq_true] at hw)
  obtain silent | ⟨hready, _⟩ := s.turn_stream_cases false
  · exact ⟨(hb false).trans (hb true).symm, by rw [hb true, ← hb false, silent]⟩
  · cases hready

/-- Settles O31: a turn commutes with a change of the host, of the events to come and of the stream. -/
theorem sequencerDoesNotDependOnTheEnvironment : Obligations.SequencerDoesNotDependOnTheEnvironment := fun s ready =>
  have same := s.turn_sameRun ready
  ⟨fun h => s.turn_withAgent h ready, fun es => s.turn_withSchedule es ready, s.turn_withStream ready, same.cfg, same.padToWord,
    same.params⟩

/-- Settles O36, which is what `step_sameRun` says of a step of a run. -/
theorem configurationIsLockedDuringARun : Obligations.ConfigurationIsLockedDuringARun := fun _ _ hb h hb' =>
  have same := step_sameRun hb h hb'
  ⟨same.cfg, same.padToWord, same.plan, same.params⟩

end

section
/-! While idle (20_memory R52, 43_serializer R107): the results of the last run and the stream stay. -/

namespace Sys2Proof.Machine

/-- A step from an idle block emits nothing, and only a reset or a CTRL write with its START bit set writes the results. -/
theorem step_of_idle {s s' : State} (hi : s.busy = false) (h : step s = .next s') :
    s'.stream = s.stream ∧
      (s.SameResults s' ∨ (∃ es, s.schedule = .reset :: es) ∨
        ∃ x, ctrlStart x = true ∧ s.brings (busWrite 0x00#8 x)) := by
  obtain ⟨u, a, es, hu, rfl⟩ := step_effect h
  cases hu with
  | none => exact ⟨rfl, .inl ⟨rfl, rfl, rfl, rfl⟩⟩
  | cfg _ _ => exact ⟨rfl, .inl ⟨rfl, rfl, rfl, rfl⟩⟩
  | hcrc _ => exact ⟨rfl, .inl ⟨rfl, rfl, rfl, rfl⟩⟩
  | ctrl x hx =>
    refine ⟨s.writeCtrl_stream x, ?_⟩
    obtain same | ⟨_, hs⟩ := s.writeCtrl_keeps_or_starts x
    · exact .inl ⟨same.plan, same.framesSent, same.lastFcs, same.status⟩
    · exact .inr (.inr ⟨x, hs, hx⟩)
  | turn ready _ _ =>
    rw [State.turn_of_idle (s.busy_eq_false.mp hi)]
    exact ⟨rfl, .inl ⟨rfl, rfl, rfl, rfl⟩⟩
  | reset es hs => exact ⟨rfl, .inr (.inl ⟨es, hs⟩)⟩

end Sys2Proof.Machine

open Sys2Proof Sys2Proof.Machine

/-- Settles O41: of the effects of a step while idle only START and a reset write the results, and none appends a beat. -/
theorem anEndedRunStaysAsItEnded : Obligations.AnEndedRunStaysAsItEnded := by
  intro s s' hi h
  obtain ⟨hstream, same | hreset | ⟨x, hx, es, hbrings⟩⟩ := step_of_idle hi h <;> refine ⟨hstream, ?_⟩
  · exact .inl ⟨same.status, same.framesSent, same.lastFcs, same.plan⟩
  · exact .inr (.inl hreset)
  · exact .inr (.inr ⟨es, x, hx, hbrings⟩)

end

section
/-! The step and the host's turn (20_memory R52, 30_encoding R66): which event a step applies, and which line the host runs. -/

namespace Sys2Proof.Machine

/-- The read of a branch leaves its value as the last one returned, and the host jumps by that value. -/
theorem afterBranch_of_read (s : State) (v mask value : Word) (target : Nat) :
    (s.withAgent { s.agent with reads := s.agent.reads ++ [v] }).afterBranch mask value target =
      s.withAgent { s.agent with
        reads := s.agent.reads ++ [v], pc := if v &&& mask ≠ value then target else s.agent.pc + 1 } := by
  simp only [State.afterBranch, State.withAgent_agent, List.getLast?_concat, branchTaken, decide_eq_true_eq]
  split <;> rfl

section
variable {s : State}

theorem runAgent_of_transaction {t : Transaction} (h : s.agent.program[s.agent.pc]? = some (.transaction t)) :
    runAgent s = exec (decode t) (s.goto (s.agent.pc + 1)) := by
  simp only [runAgent, h]
  rfl

theorem runAgent_of_branch {t : Transaction} {mask value v : Word} {target : Nat}
    (h : s.agent.program[s.agent.pc]? = some (.branch t mask value target)) (hread : Answers (decode t) s v) :
    runAgent s = .next (s.withAgent { s.agent with
      reads := s.agent.reads ++ [v], pc := if v &&& mask ≠ value then target else s.agent.pc + 1 }) := by
  have e : applyTransaction t s = .next (s.withAgent { s.agent with reads := s.agent.reads ++ [v] }) := hread
  simp only [runAgent, h, e, afterBranch_of_read]

theorem runAgent_of_end (h : s.agent.program[s.agent.pc]? = none) : runAgent s = .next s := by
  simp only [runAgent, h]

end

end Sys2Proof.Machine

open Sys2Proof Sys2Proof.Machine

/-- Settles O6: the step applies its next event, and the word of a well-formed operation decodes to that operation (O1). -/
theorem stepAppliesTheNextEvent : Obligations.StepAppliesTheNextEvent := by
  refine fun s es => ⟨fun t h => step_of_next_event h, fun i hi h => ?word, fun ready h => step_of_next_event h,
    fun h => step_of_reset_next h, fun ls h => step_of_next_event h, fun r h => step_of_next_event h,
    fun h => step_of_next_event h, fun h => ?silent⟩
  case word => exact (step_of_next_event h).trans (congrArg (exec · (s.under es)) (decodingAnEncodedOperationGivesItBack i hi))
  case silent => simp [step, State.takeEvent, h]

/-- Settles O44, line by line: a transaction, a branch by the value its read returned last, and the end of the script. -/
theorem hostScriptLinesRunInOrder : Obligations.HostScriptLinesRunInOrder := fun _ =>
  ⟨fun _ h => runAgent_of_transaction h, fun _ _ _ _ _ h hread => runAgent_of_branch h hread, runAgent_of_end⟩

end

section
/-! A read of `FRAMES_SENT` in two halves (70_reset_and_hazards R175): a run about to count its 2^32nd frame. -/

namespace Sys2Proof.Machine

/-- Two bursts of `2^32 - 1` frames of 26 octets. -/
def longBurstProfile : TrafficProfile :=
  { TrafficProfile.zero with lineRateGbps := 1#32, captureMs := 2#32, maxFrameBytes := 26#32, framesPerBurst := 0xFFFFFFFF#32,
                             burstPeriodUs := 1000#32 }

/-- Its run before the last beat of the first frame of the second burst, with `2^32 - 1` frames sent. -/
def State.atHalfBoundary : State :=
  { State.reset with
    cfg := longBurstProfile, plan := planRegs longBurstProfile, framesSent := 0xFFFFFFFF#64,
    lastFcs := frameFcs Params.default longBurstProfile
    seq := { phase := .frame, burst := 1#64, frame := 0#32, byte := 24#32, fill := 0#64, stopReq := false,
             fcs := crcFold crcInitValue (bodyPrefix Params.default longBurstProfile 22) } }

theorem State.atHalfBoundary_inv : State.atHalfBoundary.Inv where
  busy_not_done _ := rfl
  error_ended h := absurd rfl h
  cancelled_done h := nomatch h
  stop_busy h := nomatch h
  run_checked _ := ⟨by decide, by decide, by decide, rfl⟩
  burst_bound _ := by decide
  frame_bound _ := by decide
  byte_bound _ := by decide
  fill_bound := by decide
  sent_counts _ := by decide
  fcs_folds _ := by
    have body : min State.atHalfBoundary.seq.byte.toNat (State.atHalfBoundary.cfg.frameBytes - 4) = 22 := by decide
    rw [body]
    simp only [State.atHalfBoundary, State.reset]
  last_fcs _ := (if_neg (by decide)).symm
  beats_formed := nofun

/-- The next turn emits the frame's last beat and counts it. -/
theorem State.turn_atHalfBoundary :
    (State.atHalfBoundary.turn true).seq.phase = .ifg ∧ (State.atHalfBoundary.turn true).framesSent = 0x100000000#64 := by
  have hp : State.atHalfBoundary.seq.phase = .frame := rfl
  rw [State.turn_of_frame hp, State.atHalfBoundary_inv.stepFrame_of_last hp (by decide)]
  exact ⟨rfl, rfl⟩

end Sys2Proof.Machine

open Sys2Proof Sys2Proof.Machine

/-- Settles O43: `FRAMES_SENT` goes from `0xFFFFFFFF` to `0x1_0000_0000` between the two reads, which give `0x1_FFFFFFFF`. -/
theorem readingFramesSentInTwoHalvesCanTear : Obligations.ReadingFramesSentInTwoHalvesCanTear := by
  obtain ⟨hp, hsent⟩ := State.turn_atHalfBoundary
  refine ⟨State.atHalfBoundary, State.atHalfBoundary_inv, rfl, by simp [hp], 0xFFFFFFFF#32, 1#32, rfl,
    congrArg (fun n => respond (highHalf n) _) hsent, by decide, by rw [hsent]; decide⟩

end

section
/-! The position of a run (10_state R35): what it counts, and that a turn changes a counter by one. -/

namespace Sys2Proof.Machine

/-- Right after START a run stands at frame 0 of burst 0 (42_burst_plan R96). -/
theorem State.start_seq_of_burstTop {s : State} (hp : s.seq.phase = .idle) (h : s.start.seq.phase = .burstTop) :
    s.start.seq.burst = 0#64 ∧ s.start.seq.frame = 0#32 := by
  have failed : ∀ r e, s.start ≠ (s.clearOutcome.withPlan r).raise e := fun r e he => by
    rw [he] at h
    cases hp.symm.trans h
  obtain ⟨_, e⟩ | ⟨_, _, e⟩ | ⟨_, _, _, e⟩ | ⟨_, _, _, e⟩ := s.start_cases
  case inr.inr.inr => rw [e]; exact ⟨rfl, rfl⟩
  all_goals exact absurd e (failed _ _)

section
variable {s : State} (h : s.Inv)
include h

/-- After the last frame of a burst, R35 (e) read with the `seq.frame` that R106 leaves counts that burst's frames twice. -/
theorem State.Inv.leaveEob_counts_iff (hp : s.seq.phase = .eob) :
    s.framesSent.toNat = (s.seq.burst + 1#64).toNat * s.cfg.framesPerBurst.toNat + s.seq.frame.toNat ↔
      s.cfg.framesPerBurst = 0#32 := by
  have hb : s.busy = true := by simp [hp]
  obtain ⟨_, _, hlast⟩ := h.frame_bound hb
  have hframe : s.seq.frame.toNat = s.cfg.framesPerBurst.toNat := hlast hp
  have hsent := h.sent_counts hb
  simp only [State.framesDone, hp, State.framesPerBurst] at hsent
  rw [hsent, h.burst_succ hp, Nat.succ_mul, hframe, BitVec.toNat_eq]
  simp

theorem State.Inv.turn_frame_byte (hp : s.seq.phase = .frame) :
    (s.turn true).seq.byte.toNat = min (s.seq.byte.toNat + 4) s.cfg.maxFrameBytes.toNat := by
  rw [State.turn_of_frame hp, ← TrafficProfile.frameBytes, ← h.nextByte_toNat hp]
  obtain ⟨_, e⟩ | ⟨_, e⟩ := s.stepFrame_cases <;> rw [e] <;> rfl

/-- The frame that goes into its filler is counted, without wrapping. -/
theorem State.Inv.turn_frame_sent (hp : s.seq.phase = .frame) (hi : (s.turn true).seq.phase = .ifg) :
    (s.turn true).framesSent.toNat = s.framesSent.toNat + 1 := by
  have := h.framesSent_lt_of_frame hp
  have := h.total_lt (by simp [hp])
  rw [s.turn_framesSent, if_pos ⟨hp, hi⟩, BitVec.toNat_add_of_lt (by simp; omega)]
  rfl

end

end Sys2Proof.Machine

open Sys2Proof Sys2Proof.Machine

/-- Settles O50: (a) to (e) are the invariant at each phase, and (f) the equation of each step under it. -/
theorem positionOfARunCountsItsFrames : Obligations.PositionOfARunCountsItsFrames := by
  refine ⟨fun s => ?busy, fun s h hp => ?bounds, fun s hstart hp => ?start, fun s ready h hp hf => ?conflict,
    fun s h => ⟨fun hp hf => ?ifg, fun hp hf => ?eob, fun hp hf => ?fill, fun hp => ⟨?byte, ?sent⟩⟩⟩
  case busy => rw [(statusWord_flags s).1, s.busy_eq_false]
  case bounds =>
    have hb := s.busy_eq_true.mpr hp
    obtain ⟨hburst, hinside⟩ := h.burst_bound hb
    obtain ⟨hframe, hlt, _⟩ := h.frame_bound hb
    have hsent := h.sent_counts hb
    refine ⟨hburst, hinside, hframe, hlt, (h.byte_bound hb).2, ?_, ?_, ?_⟩ <;> intro hp <;>
      simpa only [State.framesDone, hp, State.framesPerBurst] using hsent
  case start =>
    obtain ⟨hburst, hframe⟩ := State.start_seq_of_burstTop hp hstart
    rw [hburst, hframe, s.start_framesSent]
    simp
  case conflict =>
    obtain ⟨_, _, hlast⟩ := h.frame_bound (by simp [hp])
    have hframe : s.seq.frame = s.cfg.framesPerBurst := BitVec.eq_of_toNat_eq (hlast hp)
    rw [State.turn_of_eob_end ready hp hf]
    exact ⟨rfl, hframe, h.leaveEob_counts_iff hp⟩
  case ifg => rw [State.turn_of_ifg_end true hp hf]; exact h.frame_succ hp
  case eob => rw [State.turn_of_eob_end true hp hf]; exact h.burst_succ hp
  case fill =>
    rw [State.turn_of_filler hp hf]
    exact (congrArg (· + 1) (Count.toNat_sub_one hf)).trans
      (Nat.succ_pred fun e => hf (BitVec.eq_of_toNat_eq e))
  case byte => exact h.turn_frame_byte hp
  case sent => exact h.turn_frame_sent hp

end

section
/-! Hexadecimal text and `SETMAC` (30_encoding R67): the digits, the two writes of an address, and what they leave in the MAC
registers (10_state R24). -/

namespace Sys2Proof.Machine

/-! ### Digits -/

/-- In a list of the sixteen digits, in their order, a digit stands at its value. -/
theorem hexDigit_of_getElem? {digits : Text} (h : digits.map hexDigit = (List.range 16).map some) {k : Nat} (hk : k < 16)
    {c : Char} (hc : digits[k]? = some c) : hexDigit c = some k := by
  have e : (digits.map hexDigit)[k]? = some (hexDigit c) := by rw [List.getElem?_map, hc]; rfl
  rw [h, List.getElem?_map, List.getElem?_range hk] at e
  exact (Option.some.inj e).symm

/-! ### The halves of an address -/

theorem setWidth_eq_zero_append (v : BitVec 16) : v.setWidth 32 = (0#16 ++ v : BitVec (16 + 16)) :=
  BitVec.setWidth_eq_append (by decide)

theorem macHiField_zero_append (v : BitVec 16) : macHiField (0#16 ++ v : BitVec (16 + 16)) = v := by
  apply BitVec.eq_of_getLsbD_eq
  intro i hi
  have low : (0#16 ++ v : BitVec (16 + 16)).getLsbD (0 + i) = v.getLsbD i := by
    rw [BitVec.getLsbD_append, Nat.zero_add, if_pos hi]
  simpa only [macHiField, BitVec.getLsbD_extractLsb', hi, decide_true, Bool.true_and] using low

theorem mac_halves_append (m : BitVec 48) : (m.extractLsb' 32 16 ++ m.extractLsb' 0 32 : BitVec (16 + 32)) = m := by
  apply BitVec.eq_of_getLsbD_eq
  intro i hi
  rw [BitVec.getLsbD_append]
  split
  next h => simp [h]
  next h => simp [show i - 32 < 16 by omega, show 32 + (i - 32) = i by omega]

/-! ### The expansion -/

theorem expandSetMac_of_spells {hex : Text} {m : BitVec 48} (h : SpellsMac hex m) (hi lo : RegName) :
    expandSetMac hi lo hex =
      .ok [agentWrite hi (0#16 ++ m.extractLsb' 32 16 : BitVec (16 + 16)), agentWrite lo (m.extractLsb' 0 32)] := by
  simp only [expandSetMac, parseMac_of_spells h, setWidth_eq_zero_append]

/-- Text that spells no address is refused, for either MAC. -/
theorem expandOp_setMac_refused {hex : Text} (h : parseMac hex = none) (n : Nat) (which : MacName) :
    expandOp n (.setMac which hex) = .error .malformedHex := by
  cases which <;> simp only [expandOp, expandSetMac, h]

/-! ### The writes -/

/-- The writes of two configuration registers one after the other, while idle. -/
theorem execAll_write_write {r q : RegName} {x y : Word} {f g : TrafficProfile → TrafficProfile}
    (hr : ∀ s, exec (.writeOf x r) s = writeLocked f s) (hq : ∀ s, exec (.writeOf y q) s = writeLocked g s) {s : State}
    (hp : s.seq.phase = .idle) :
    execAll [decode (busWrite r.offset x), decode (busWrite q.offset y)] s = .next (s.withCfg (g (f s.cfg))) := by
  have hp' : (s.withCfg (f s.cfg)).seq.phase = .idle := hp
  simp only [execAll, busWrite, decode_register, if_true, hr, hq, writeLocked_of_idle hp, writeLocked_of_idle hp']
  rfl

section
variable {s : State} (hp : s.seq.phase = .idle) (m : BitVec 48)
include hp

theorem execAll_write_destMac :
    execAll [decode (busWrite 0x14#8 (0#16 ++ m.extractLsb' 32 16 : BitVec (16 + 16))),
        decode (busWrite 0x18#8 (m.extractLsb' 0 32))] s =
      .next (s.withCfg { s.cfg with destMacHi := m.extractLsb' 32 16, destMacLo := m.extractLsb' 0 32 }) :=
  (execAll_write_write (r := .destMacHi) (q := .destMacLo) (f := ({ · with destMacHi := macHiField _ }))
    (g := ({ · with destMacLo := _ })) (fun _ => rfl) (fun _ => rfl) hp).trans (by rw [macHiField_zero_append])

theorem execAll_write_srcMac :
    execAll [decode (busWrite 0x1C#8 (0#16 ++ m.extractLsb' 32 16 : BitVec (16 + 16))),
        decode (busWrite 0x20#8 (m.extractLsb' 0 32))] s =
      .next (s.withCfg { s.cfg with srcMacHi := m.extractLsb' 32 16, srcMacLo := m.extractLsb' 0 32 }) :=
  (execAll_write_write (r := .srcMacHi) (q := .srcMacLo) (f := ({ · with srcMacHi := macHiField _ }))
    (g := ({ · with srcMacLo := _ })) (fun _ => rfl) (fun _ => rfl) hp).trans (by rw [macHiField_zero_append])

end

end Sys2Proof.Machine

open Sys2Proof Sys2Proof.Machine

/-- Settles O45: reading a text is spelling it (`parseMac_eq_some_iff`), and the two writes of an address store its halves. -/
theorem setMacLoadsTheAddressAndRefusesMalformedHex : Obligations.SetMacLoadsTheAddressAndRefusesMalformedHex := by
  refine ⟨fun k hk c hc => hc.elim (hexDigit_of_getElem? (by decide) hk) (hexDigit_of_getElem? (by decide) hk),
    fun c => hexDigit_none_of_not_mem, fun s n hex m hp hl hd =>
      ⟨⟨_, _, ?dest, _, execAll_write_destMac hp m, rfl, mac_halves_append m⟩,
        ⟨_, _, ?src, _, execAll_write_srcMac hp m, rfl, mac_halves_append m⟩⟩,
    fun hex hl hd => ?spells, fun hex n which h => expandOp_setMac_refused (parseMac_none h) n which⟩
  case dest => exact expandSetMac_of_spells ⟨hl, hd⟩ .destMacHi .destMacLo
  case src => exact expandSetMac_of_spells ⟨hl, hd⟩ .srcMacHi .srcMacLo
  case spells =>
    obtain ⟨m, _, hm⟩ := spellsMac_of_digits hl hd
    exact ⟨m, hm⟩

end

section
/-! The assembler and the loader as sequences of steps that may refuse (60_exceptions R158): what an answer or a refusal of the
whole says of its parts. -/

namespace Sys2Proof.Machine

section
variable {α β : Type} {x : Except Refusal α} {f : α → Except Refusal β}

theorem ok_of_bind {b : β} (h : x >>= f = .ok b) : ∃ a, x = .ok a ∧ f a = .ok b := by
  cases x with
  | error e => cases h
  | ok a => exact ⟨a, rfl, h⟩

theorem error_of_bind {e : Refusal} (h : x >>= f = .error e) : x = .error e ∨ ∃ a, x = .ok a ∧ f a = .error e := by
  cases x with
  | error e' => cases h; exact .inl rfl
  | ok a => exact .inr ⟨a, rfl, h⟩

end

/-- A step whose next event makes the host take a new script: the tool's refusal, or the program, to run from its first line. -/
theorem step_takeScript {s : State} {e : Event} {es : List Event} {answer : Except Refusal (List AgentLine)}
    (hs : s.schedule = e :: es) (he : ∀ t, applyEvent e t = t.takeScript answer) :
    (∀ r, answer = .error r → step s = .refused r) ∧
    (∀ p, answer = .ok p → step s = .next { s with schedule := es, agent := { s.agent with program := p, pc := 0 } }) := by
  rw [step_of_next_event hs, he]
  exact ⟨fun r h => by rw [h]; rfl, fun p h => by rw [h]; rfl⟩

end Sys2Proof.Machine
end

section
/-! The configuration loader (44_register_ops R155): the keys it looks up, and its answer or refusal by what they give. -/

namespace Sys2Proof.Machine

/-! ### One key -/

section
variable {k key : Text} (h : k ≠ key) (v : Text) (kvs : List (Text × Text))
include h

/-- A pair with another key is no part of what a key is looked up in. -/
theorem recordValue_cons_of_ne : recordValue ((k, v) :: kvs) key = recordValue kvs key := by
  simp [recordValue, h]

theorem recordInt_cons_of_ne : recordInt ((k, v) :: kvs) key = recordInt kvs key := by
  rw [recordInt, recordValue_cons_of_ne h, recordInt]

theorem recordMac_cons_of_ne : recordMac ((k, v) :: kvs) key = recordMac kvs key := by
  rw [recordMac, recordValue_cons_of_ne h, recordMac]

end

section
variable {kvs : List (Text × Text)} {key : String}

theorem givesInt_of_ok {v : Word} (h : recordInt kvs key.toList = .ok v) : GivesInt kvs key v := by
  obtain ⟨v', e, hv⟩ | e := recordInt_cases kvs key <;> rw [e] at h <;> cases h
  exact hv

theorem givesMac_of_ok {m : BitVec 48} (h : recordMac kvs key.toList = .ok m) : GivesMac kvs key m := by
  obtain ⟨m', e, hm⟩ | e := recordMac_cases kvs key <;> rw [e] at h <;> cases h
  exact hm

theorem recordInt_error {e : Refusal} (h : recordInt kvs key.toList = .error e) : e = .configurationError := by
  obtain ⟨v, e', _⟩ | e' := recordInt_cases kvs key <;> rw [e'] at h <;> cases h
  rfl

theorem recordMac_error {e : Refusal} (h : recordMac kvs key.toList = .error e) : e = .malformedHex := by
  obtain ⟨m, e', _⟩ | e' := recordMac_cases kvs key <;> rw [e'] at h <;> cases h
  rfl

end

/-! ### The whole record -/

/-- A pair whose key is none of the eight changes nothing. -/
theorem loaderWrites_cons_of_unknown {k : Text} (h : ∀ key ∈ integerKeys ++ macKeys, k ≠ key.toList) (v : Text)
    (kvs : List (Text × Text)) : loaderWrites (some ((k, v) :: kvs)) = loaderWrites (some kvs) := by
  simp only [integerKeys, macKeys, List.cons_append, List.nil_append, List.forall_mem_cons] at h
  obtain ⟨rate, capture, gap, size, frames, period, dest, src, _⟩ := h
  simp only [loaderWrites, recordInt_cons_of_ne rate, recordInt_cons_of_ne capture, recordInt_cons_of_ne gap,
    recordInt_cons_of_ne size, recordInt_cons_of_ne frames, recordInt_cons_of_ne period, recordMac_cons_of_ne dest,
    recordMac_cons_of_ne src]

/-- The ten writes of the register table of 44_register_ops R155. -/
def loaderProgram (r c g sz f u : Word) (dm sm : BitVec 48) : List AgentLine :=
  ([(0x08#8, r), (0x0C#8, c), (0x10#8, g), (0x14#8, 0#16 ++ dm.extractLsb' 32 16), (0x18#8, dm.extractLsb' 0 32),
    (0x1C#8, 0#16 ++ sm.extractLsb' 32 16), (0x20#8, sm.extractLsb' 0 32), (0x24#8, sz), (0x28#8, f), (0x2C#8, u)] :
      List (Offset × Word)).map fun av => .transaction (busWrite av.1 av.2)

/-- A record that is not refused gives all eight values, and the ten writes of them. -/
theorem loaderWrites_ok {kvs : List (Text × Text)} {p : List AgentLine} (h : loaderWrites (some kvs) = .ok p) :
    ∃ (r c g sz f u : Word) (dm sm : BitVec 48),
      GivesInt kvs "lineRateGbps" r ∧ GivesInt kvs "captureDurationMs" c ∧ GivesInt kvs "minIfgBytesPerFrame" g ∧
      GivesMac kvs "destMac" dm ∧ GivesMac kvs "srcMac" sm ∧ GivesInt kvs "maxFrameSizeBytes" sz ∧
      GivesInt kvs "framesPerBurst" f ∧ GivesInt kvs "burstPeriodUs" u ∧ p = loaderProgram r c g sz f u dm sm := by
  obtain ⟨r, hr, h⟩ := ok_of_bind h
  obtain ⟨c, hc, h⟩ := ok_of_bind h
  obtain ⟨g, hg, h⟩ := ok_of_bind h
  obtain ⟨dm, hdm, h⟩ := ok_of_bind h
  obtain ⟨sm, hsm, h⟩ := ok_of_bind h
  obtain ⟨sz, hsz, h⟩ := ok_of_bind h
  obtain ⟨f, hf, h⟩ := ok_of_bind h
  obtain ⟨u, hu, h⟩ := ok_of_bind h
  cases h
  refine ⟨r, c, g, sz, f, u, dm, sm, givesInt_of_ok hr, givesInt_of_ok hc, givesInt_of_ok hg, givesMac_of_ok hdm,
    givesMac_of_ok hsm, givesInt_of_ok hsz, givesInt_of_ok hf, givesInt_of_ok hu, ?_⟩
  rw [setWidth_eq_zero_append, setWidth_eq_zero_append]
  rfl

/-- A refusal is that of one of the keys, by its kind. -/
theorem loaderWrites_error {kvs : List (Text × Text)} {e : Refusal} (h : loaderWrites (some kvs) = .error e) :
    (e = .configurationError ∧ ∃ key ∈ integerKeys, recordInt kvs key.toList = .error e) ∨
    (e = .malformedHex ∧ ∃ key ∈ macKeys, recordMac kvs key.toList = .error e) := by
  obtain he | ⟨_, _, h⟩ := error_of_bind h
  · exact .inl ⟨recordInt_error he, "lineRateGbps", by decide, he⟩
  obtain he | ⟨_, _, h⟩ := error_of_bind h
  · exact .inl ⟨recordInt_error he, "captureDurationMs", by decide, he⟩
  obtain he | ⟨_, _, h⟩ := error_of_bind h
  · exact .inl ⟨recordInt_error he, "minIfgBytesPerFrame", by decide, he⟩
  obtain he | ⟨_, _, h⟩ := error_of_bind h
  · exact .inr ⟨recordMac_error he, "destMac", by decide, he⟩
  obtain he | ⟨_, _, h⟩ := error_of_bind h
  · exact .inr ⟨recordMac_error he, "srcMac", by decide, he⟩
  obtain he | ⟨_, _, h⟩ := error_of_bind h
  · exact .inl ⟨recordInt_error he, "maxFrameSizeBytes", by decide, he⟩
  obtain he | ⟨_, _, h⟩ := error_of_bind h
  · exact .inl ⟨recordInt_error he, "framesPerBurst", by decide, he⟩
  obtain he | ⟨_, _, h⟩ := error_of_bind h
  · exact .inl ⟨recordInt_error he, "burstPeriodUs", by decide, he⟩
  cases h

/-- A record without repeated keys is loaded where it gives every value, and is refused otherwise, by the kind of a key that gives
none. -/
theorem loaderWrites_cases {kvs : List (Text × Text)} (hn : (kvs.map Prod.fst).Nodup) :
    ((∀ key ∈ integerKeys, ∃ v, GivesInt kvs key v) ∧ (∀ key ∈ macKeys, ∃ m, GivesMac kvs key m) ∧
      ∃ p, loaderWrites (some kvs) = .ok p) ∨
    (¬ (∀ key ∈ integerKeys, ∃ v, GivesInt kvs key v) ∧ loaderWrites (some kvs) = .error .configurationError) ∨
    (¬ (∀ key ∈ macKeys, ∃ m, GivesMac kvs key m) ∧ loaderWrites (some kvs) = .error .malformedHex) := by
  cases h : loaderWrites (some kvs) with
  | ok p =>
    obtain ⟨r, c, g, sz, f, u, dm, sm, hr, hc, hg, hdm, hsm, hsz, hf, hu, _⟩ := loaderWrites_ok h
    refine .inl ⟨?_, ?_, p, rfl⟩
    · simp only [integerKeys, List.forall_mem_cons]
      exact ⟨⟨r, hr⟩, ⟨c, hc⟩, ⟨g, hg⟩, ⟨sz, hsz⟩, ⟨f, hf⟩, ⟨u, hu⟩, nofun⟩
    · simp only [macKeys, List.forall_mem_cons]
      exact ⟨⟨dm, hdm⟩, ⟨sm, hsm⟩, nofun⟩
  | error e =>
    obtain ⟨rfl, key, hk, he⟩ | ⟨rfl, key, hk, he⟩ := loaderWrites_error h
    · refine .inr (.inl ⟨fun good => ?_, rfl⟩)
      obtain ⟨v, hv⟩ := good key hk
      cases he.symm.trans (recordInt_of_gives hn hv)
    · refine .inr (.inr ⟨fun good => ?_, rfl⟩)
      obtain ⟨m, hm⟩ := good key hk
      cases he.symm.trans (recordMac_of_gives hn hm)

end Sys2Proof.Machine

open Sys2Proof Sys2Proof.Machine

/-- Settles O46, from the answer of the loader key by key (`loaderWrites_ok`, `loaderWrites_error`). -/
theorem loaderWritesEveryRegisterOrNone : Obligations.LoaderWritesEveryRegisterOrNone := by
  refine ⟨rfl, fun kvs k v h => loaderWrites_cons_of_unknown h v kvs, fun kvs p h => loaderWrites_ok h, fun kvs hn => ?kinds,
    fun s r es hs => step_takeScript hs fun _ => rfl⟩
  intro intsGood macsGood
  obtain ⟨ints, macs, hp⟩ | ⟨ints, he⟩ | ⟨macs, he⟩ := loaderWrites_cases hn
  · exact ⟨fun _ _ => hp, fun hn _ => absurd ints hn, fun _ hn => absurd macs hn, fun hn _ => absurd ints hn⟩
  · exact ⟨fun hi _ => absurd hi ints, fun _ _ => he, fun hi _ => absurd hi ints, fun _ _ => .inl he⟩
  · exact ⟨fun _ hm => absurd hm macs, fun _ hm => absurd hm macs, fun _ _ => he, fun _ _ => .inr he⟩

end

section
/-! The script assembler (30_encoding R66, R67): the expansion of each operation, and of a whole script. -/

namespace Sys2Proof.Machine

/-! ### Targets and numbers -/

section
variable {t : ScriptTarget} {a : Offset}

theorem resolveTarget_aligned (h : a.extractLsb' 0 2 = 0#2) : resolveTarget (.offset a) = .ok a :=
  if_pos (by simp [Offset.aligned, h])

theorem resolveTarget_misaligned (h : a.extractLsb' 0 2 ≠ 0#2) : resolveTarget (.offset a) = .error (.misaligned a) :=
  if_neg (by simp [Offset.aligned, h])

theorem expandOp_rd (h : resolveTarget t = .ok a) (n : Nat) : expandOp n (.rd t) = .ok [.transaction (busRead a)] := by
  simp only [expandOp, h]
  rfl

theorem expandOp_wr (h : resolveTarget t = .ok a) (n : Nat) (x : Word) :
    expandOp n (.wr t x.toNat) = .ok [.transaction (busWrite a x)] := by
  simp only [expandOp, h, wordOf_toNat]
  rfl

/-- A target that is refused refuses its operation, before any number is looked at (log 16). -/
theorem expandOp_target_refused {e : Refusal} (h : resolveTarget t = .error e) (n : Nat) (v : Int) :
    expandOp n (.rd t) = .error e ∧ expandOp n (.wr t v) = .error e := by
  simp only [expandOp, h]
  exact ⟨rfl, rfl⟩

theorem expandOp_wr_refused (h : resolveTarget t = .ok a) (n : Nat) {v : Int} (hv : v < 0 ∨ 2 ^ 32 ≤ v) :
    expandOp n (.wr t v) = .error (.immediateOutOfRange v) := by
  simp only [expandOp, h, wordOf_refused hv]
  rfl

end

theorem expandOp_bne (n k : Nat) (r : RegName) (m x : Word) :
    expandOp n (.bne r m.toNat x.toNat k) = .ok [.branch (busRead r.offset) m x k] := by
  simp only [expandOp, wordOf_toNat]
  rfl

theorem expandOp_bne_refused (n k : Nat) (r : RegName) (m x : Word) {v : Int} (hv : v < 0 ∨ 2 ^ 32 ≤ v) :
    expandOp n (.bne r v x.toNat k) = .error (.immediateOutOfRange v) ∧
      expandOp n (.bne r m.toNat v k) = .error (.immediateOutOfRange v) := by
  simp only [expandOp, wordOf_toNat, wordOf_refused hv]
  exact ⟨rfl, rfl⟩

/-! ### Octets -/

theorem expandCrcOctets_eq (os : List Byte) :
    expandCrcOctets os = os.map fun o => .transaction (busWrite 0x54#8 (0#24 ++ o : BitVec (24 + 8))) := by
  refine List.map_congr_left fun o _ => ?_
  have octet : o.setWidth 32 = (0#24 ++ o : BitVec (24 + 8)) := BitVec.setWidth_eq_append (by decide)
  rw [octet]
  rfl

theorem expandOp_crcHex {hex : Text} {os : List Byte} (h : parseOctets hex = some os) (n : Nat) :
    expandOp n (.crcHex hex) = .ok (expandCrcOctets os) := by
  simp only [expandOp, h]

theorem expandOp_crcHex_refused {hex : Text} (h : parseOctets hex = none) (n : Nat) :
    expandOp n (.crcHex hex) = .error .malformedHex := by
  simp only [expandOp, h]

/-! ### The whole script -/

section
variable {ops : List ScriptOp}

/-- The program is the expansions in order, with each branch going to the line its operation begins at. -/
theorem assemble_ok {es : List (List AgentLine)} (hl : es.length = ops.length)
    (h : ∀ (n : Nat) o e, ops[n]? = some o → es[n]? = some e → expandOp n o = .ok e) :
    assemble ops = .ok (es.flatten.map (AgentLine.retarget (lineOf es))) := by
  simp only [assemble, expandAll_ok ops es 0 hl fun k o e ho he => by rw [Nat.zero_add]; exact h k o e ho he]
  rfl

theorem assemble_refused {n : Nat} {o : ScriptOp} {e : Refusal} (ho : ops[n]? = some o) (h : expandOp n o = .error e) :
    ∃ e', assemble ops = .error e' := by
  obtain ⟨e', he⟩ := expandAll_refused ops 0 n o e ho (by rwa [Nat.zero_add])
  exact ⟨e', by simp only [assemble, he]; rfl⟩

end

end Sys2Proof.Machine

open Sys2Proof Sys2Proof.Machine

/-- Settles O49: operation by operation, and then the script as the expansions of its operations with the branches moved to lines
(`assemble_ok`). -/
theorem assemblerExpandsEveryOperation : Obligations.AssemblerExpandsEveryOperation := by
  refine ⟨fun n r a x v => ?transactions, fun n k r m x v => ⟨expandOp_bne n k r m x, expandOp_bne_refused n k r m x⟩,
    fun n => ⟨rfl, rfl, rfl, rfl, rfl, rfl, rfl, rfl, rfl, rfl⟩, fun n hex m h => ?setMac, fun n which hex h => ?noMac,
    fun n codes => congrArg Except.ok (expandCrcOctets_eq codes), fun n hex os hl hd => ?crcHex, fun n hex h => ?noOctets,
    fun ops => ⟨fun es hl h => ?program, fun ⟨n, o, e, ho, he⟩ => assemble_refused ho he,
      fun s es hs => step_takeScript hs fun _ => rfl⟩⟩
  case transactions =>
    have register : resolveTarget (.register r) = .ok r.offset := rfl
    refine ⟨expandOp_rd register n, expandOp_wr register n x, fun ha => ?_, fun ha => ?_, expandOp_wr_refused register n⟩
    · exact ⟨expandOp_rd (resolveTarget_aligned ha) n, expandOp_wr (resolveTarget_aligned ha) n x⟩
    · exact expandOp_target_refused (resolveTarget_misaligned ha) n x.toNat
  case setMac => exact ⟨expandSetMac_of_spells h .destMacHi .destMacLo, expandSetMac_of_spells h .srcMacHi .srcMacLo⟩
  case noMac =>
    have none : parseMac hex = none := Option.eq_none_iff_forall_ne_some.mpr fun m hm => h m ((parseMac_eq_some_iff hex m).mp hm)
    exact expandOp_setMac_refused none n which
  case crcHex => rw [expandOp_crcHex (parseOctets_of_digits os hex hl hd), expandCrcOctets_eq]
  case noOctets => exact expandOp_crcHex_refused (parseOctets_none hex.length hex (Nat.le_refl _) h) n
  case program =>
    refine ⟨_, assemble_ok hl h, List.length_map _, fun i t ht => ?_, fun i rd m v k hb => ?_⟩
    · rw [List.getElem?_map, ht]; rfl
    · rw [List.getElem?_map, hb, ← lineOf_eq_sum]; rfl

end
